-- ==== Sys2Proof/Word.lean ====
section
/-! DEFINITION. The block's data types: levels, bytes, Colors and Items (00_scope.md section 4, 30_encoding.md R46, R49, R50). -/

namespace Sys2Proof

/-- A channel intensity: an unsigned integer `0..255` (00_scope.md 4.1, R12). -/
abbrev Byte := BitVec 8

/-- A logic level of the data line, low or high (R49). -/
inductive Level where
  | L
  | H
deriving DecidableEq, Repr, Inhabited

/-- A Color: four independent 8-bit channels, in the logical order red, green, blue, white (R46). -/
structure Color where
  r : Byte
  g : Byte
  b : Byte
  w : Byte
deriving DecidableEq, Repr, Inhabited

/-- `ZERO`, all channels off (00_scope.md 4.2). -/
def Color.zero : Color := ⟨0, 0, 0, 0⟩

/-- An Item (the source's Pulse): drive `level0` for `duration0` ticks, then `level1` for `duration1` ticks (R50).
The record is the normative form, so a duration is a natural number of ticks. -/
structure Item where
  level0 : Level
  duration0 : Nat
  level1 : Level
  duration1 : Nat
deriving DecidableEq, Repr, Inhabited

end Sys2Proof
end

