-- ==== Sys2Proof/Config.lean ====
section
/-! DEFINITION. What is fixed for one block but left OPEN by the spec (R4), and the free values: every choice of the
peripheral and every value of the line that the spec leaves to no rule (R25, R100 to R104, R109). Nothing here has a
value a proof could see. -/

namespace Sys2Proof.Config

/-- The bounded carrier of `NMAX` (R4): OPEN, with `0 <= NMAX <= 134217727`. -/
opaque countLimit : Fin 134217728

/-- `NMAX`, the largest LED count INIT accepts (R4, decision D2). -/
def nmax : Nat := countLimit.val

/-- `PIN`, the pin BEGIN configures (R4, decision D19): OPEN. -/
opaque pin : Byte

/-- `CHANNEL`, the peripheral channel BEGIN configures (R4, decision D19): OPEN. -/
opaque channel : Byte

/-- `TICK_NS`, the real duration of one tick (R4, R172, decision D28): OPEN, and no rule depends on it. DESIGN CHOICE
(log 22), unsafe for a claim about real time: a whole number of nanoseconds, and one number whatever
`CFGR.clockDivisor` holds. -/
opaque tickNs : Nat

/-- The level of tick `k` of the line before the first successful CFG: any value (R24, U7). -/
opaque lineBeforeConfigure : Nat → Level

/-- An answer of the peripheral to one of its three calls (R101 to R103; `error` is ConfigError, InstallError or
TransmitError according to the call). -/
inductive Answer where
  | ok
  | error
deriving DecidableEq, Repr, Inhabited

/-- What the peripheral does in its next turn while it holds a frame (R96, R103, R108): go on (take the next item, or
end with `ok` when it has taken all), let time pass, or end with TransmitError. -/
inductive Move where
  | go
  | wait
  | fail
deriving DecidableEq, Repr, Inhabited

/-- One draw of all the free values (R25): the answers to configure and install, the peripheral's next move, how many
idle ticks have passed, and what the line carries in a transmission that fails (R109). -/
structure Draw where
  configure : Answer
  install : Answer
  move : Move
  idleTicks : Nat
  failed : List Level
deriving DecidableEq, Repr, Inhabited

/-- The free values, one draw for each natural number; unconstrained (decision D29: draws under no law). -/
opaque draw : Nat → Draw

end Sys2Proof.Config
end

