-- ==== Sys2Proof/Syntax.lean ====
section
/-! DEFINITION. The instructions: one constructor for each row of spec/opcode_table.json (R52, R55, R59, R63). -/

namespace Sys2Proof

/-- The rows of the opcode table. The first ten are the commands (R55), then the two aliases of SETC (R63), the six
reserved opcodes (R59), and the three symbols, which the generator and not the client performs (R52, R96).
Operands are read as R57 says: a count is `zext`, an index is `sext` of the field `a`. -/
inductive Instr where
  | init (n : Nat)
  | setc (i : Int) (c : Color)
  | rdpx (i : Int)
  | wrpx (i : Int) (c : Color)
  | count
  | enc
  | cfg (pin channel clockDivisor : Byte)
  | tx
  | begin (n : Nat)
  | update
  | setcv (i : Int) (v : BitVec 32)
  | setled (i : Int) (c : Color)
  | reserved0 (a d : BitVec 32)
  | reservedB (a d : BitVec 32)
  | reservedC (a d : BitVec 32)
  | reservedD (a d : BitVec 32)
  | reservedE (a d : BitVec 32)
  | reservedF (a d : BitVec 32)
  | t0
  | t1
  | trst
deriving DecidableEq, Repr

end Sys2Proof
end

