-- ==== Sys2Proof/WellFormed.lean ====
section
/-! DEFINITION. Which instruction terms have a word: a count fits the unsigned and an index the signed 32-bit field `a`
(R31, R56, R57). Every other operand fits its field by its type. -/

namespace Sys2Proof

/-- The count fits the 32-bit unsigned field (R57, decision D2). -/
def countFits (n : Nat) : Bool := decide (n < 2 ^ 32)

/-- The index fits the 32-bit two's-complement field (R31, decision D3). -/
def indexFits (i : Int) : Bool := decide (-(2 ^ 31) ≤ i) && decide (i < 2 ^ 31)

/-- The operands fit the fields of the instruction's word. -/
def Instr.wf : Instr → Bool
  | .init n => countFits n
  | .setc i _ => indexFits i
  | .rdpx i => indexFits i
  | .wrpx i _ => indexFits i
  | .count => true
  | .enc => true
  | .cfg _ _ _ => true
  | .tx => true
  | .begin n => countFits n
  | .update => true
  | .setcv i _ => indexFits i
  | .setled i _ => indexFits i
  | .reserved0 _ _ => true
  | .reservedB _ _ => true
  | .reservedC _ _ => true
  | .reservedD _ _ => true
  | .reservedE _ _ => true
  | .reservedF _ _ => true
  | .t0 => true
  | .t1 => true
  | .trst => true

end Sys2Proof
end

