-- ==== Sys2Proof/Decode.lean ====
section
/-! DEFINITION. The packed formats, the total decoder and the encoder (R45 to R60, R63). -/

namespace Sys2Proof

/-- A Color in a 32-bit field: `r` in 31:24, `g` in 23:16, `b` in 15:8, `w` in 7:0 (R46). -/
def Color.pack (c : Color) : BitVec 32 := c.r ++ c.g ++ c.b ++ c.w

/-- The Color of a 32-bit field; every value is legal (R46). -/
def Color.unpack (v : BitVec 32) : Color :=
  ⟨v.extractLsb' 24 8, v.extractLsb' 16 8, v.extractLsb' 8 8, v.extractLsb' 0 8⟩

/-- A Level as a bit: low 0, high 1 (R49). -/
def Level.bit : Level → BitVec 1
  | .L => 0#1
  | .H => 1#1

/-- The Level of a bit (R49). -/
def Level.ofBit (b : BitVec 1) : Level := if b = 1#1 then .H else .L

/-- A packed Item: `level1` 31, `duration1` 30:16, `level0` 15, `duration0` 14:0 (R51). -/
def Item.pack (it : Item) : BitVec 32 :=
  it.level1.bit ++ BitVec.ofNat 15 it.duration1 ++ it.level0.bit ++ BitVec.ofNat 15 it.duration0

/-- The Item of a packed item word (R51). -/
def Item.unpack (w : BitVec 32) : Item :=
  { level0 := Level.ofBit (w.extractLsb' 15 1), duration0 := (w.extractLsb' 0 15).toNat,
    level1 := Level.ofBit (w.extractLsb' 31 1), duration1 := (w.extractLsb' 16 15).toNat }

/-- The symbol of a 0 bit (R52). -/
def symT0 : Item := ⟨.H, 15, .L, 45⟩

/-- The symbol of a 1 bit (R52). -/
def symT1 : Item := ⟨.H, 30, .L, 30⟩

/-- The reset symbol (R52, decision D5). -/
def symTRST : Item := ⟨.L, 2000, .L, 0⟩

/-- The row of the symbol table an Item is, if it is one (R52). -/
def symbolOf (it : Item) : Option Instr :=
  if it = symT0 then some .t0
  else if it = symT1 then some .t1
  else if it = symTRST then some .trst
  else none

/-- `sext_32`: a two's-complement integer (00_scope.md 4.1). -/
def sext32 (a : BitVec 32) : Int := a.toInt

/-- `zext_32`: an unsigned integer (00_scope.md 4.1). -/
def zext32 (a : BitVec 32) : Nat := a.toNat

/-- The opcode field of a command word, bits 67:64 (R56). -/
def opField (w : BitVec 68) : BitVec 4 := w.extractLsb' 64 4

/-- The field `a` of a command word, bits 63:32 (R56). -/
def aField (w : BitVec 68) : BitVec 32 := w.extractLsb' 32 32

/-- The field `d` of a command word, bits 31:0 (R56). -/
def dField (w : BitVec 68) : BitVec 32 := w.extractLsb' 0 32

/-- The command word `op:a:d` (R56). -/
def commandWord (op : BitVec 4) (a d : BitVec 32) : BitVec 68 := op ++ a ++ d

/-- The command a 68-bit word stands for, by its opcode alone (R55, R57, R59, R60): total, and a reserved opcode is
decoded to its own row, never to a neighbour. -/
def decodeCommand (w : BitVec 68) : Instr :=
  if opField w = 0x1#4 then .init (zext32 (aField w))
  else if opField w = 0x2#4 then .setc (sext32 (aField w)) (Color.unpack (dField w))
  else if opField w = 0x3#4 then .rdpx (sext32 (aField w))
  else if opField w = 0x4#4 then .wrpx (sext32 (aField w)) (Color.unpack (dField w))
  else if opField w = 0x5#4 then .count
  else if opField w = 0x6#4 then .enc
  else if opField w = 0x7#4 then
    .cfg ((dField w).extractLsb' 16 8) ((dField w).extractLsb' 8 8) ((dField w).extractLsb' 0 8)
  else if opField w = 0x8#4 then .tx
  else if opField w = 0x9#4 then .begin (zext32 (aField w))
  else if opField w = 0xA#4 then .update
  else if opField w = 0xB#4 then .reservedB (aField w) (dField w)
  else if opField w = 0xC#4 then .reservedC (aField w) (dField w)
  else if opField w = 0xD#4 then .reservedD (aField w) (dField w)
  else if opField w = 0xE#4 then .reservedE (aField w) (dField w)
  else if opField w = 0xF#4 then .reservedF (aField w) (dField w)
  else .reserved0 (aField w) (dField w)

/-- The two kinds of word a row of the opcode table has: a command word at the command port (R56) and a packed item
in the item store (R51). -/
inductive CodeWord where
  | command (w : BitVec 68)
  | item (w : BitVec 32)
deriving DecidableEq, Repr

/-- The decoder, total on both kinds of word. A command word always decodes (R60); an item word that is none of the
three symbols names no row (R54). -/
def decode : CodeWord → Option Instr
  | .command w => some (decodeCommand w)
  | .item w => symbolOf (Item.unpack w)

/-- The encoder. Unused fields are zeros (R58); an alias has the word of its SETC (R63). -/
def encode : Instr → CodeWord
  | .init n => .command (commandWord 0x1#4 (BitVec.ofNat 32 n) 0#32)
  | .setc i c => .command (commandWord 0x2#4 (BitVec.ofInt 32 i) c.pack)
  | .rdpx i => .command (commandWord 0x3#4 (BitVec.ofInt 32 i) 0#32)
  | .wrpx i c => .command (commandWord 0x4#4 (BitVec.ofInt 32 i) c.pack)
  | .count => .command (commandWord 0x5#4 0#32 0#32)
  | .enc => .command (commandWord 0x6#4 0#32 0#32)
  | .cfg p ch k => .command (commandWord 0x7#4 0#32 (0#8 ++ p ++ ch ++ k))
  | .tx => .command (commandWord 0x8#4 0#32 0#32)
  | .begin n => .command (commandWord 0x9#4 (BitVec.ofNat 32 n) 0#32)
  | .update => .command (commandWord 0xA#4 0#32 0#32)
  | .setcv i v => .command (commandWord 0x2#4 (BitVec.ofInt 32 i) v)
  | .setled i c => .command (commandWord 0x2#4 (BitVec.ofInt 32 i) c.pack)
  | .reserved0 a d => .command (commandWord 0x0#4 a d)
  | .reservedB a d => .command (commandWord 0xB#4 a d)
  | .reservedC a d => .command (commandWord 0xC#4 a d)
  | .reservedD a d => .command (commandWord 0xD#4 a d)
  | .reservedE a d => .command (commandWord 0xE#4 a d)
  | .reservedF a d => .command (commandWord 0xF#4 a d)
  | .t0 => .item symT0.pack
  | .t1 => .item symT1.pack
  | .trst => .item symTRST.pack

/-- What an alias is another spelling of (R63, R119); every other row is itself. -/
def Instr.core : Instr → Instr
  | .init n => .init n
  | .setc i c => .setc i c
  | .rdpx i => .rdpx i
  | .wrpx i c => .wrpx i c
  | .count => .count
  | .enc => .enc
  | .cfg p ch k => .cfg p ch k
  | .tx => .tx
  | .begin n => .begin n
  | .update => .update
  | .setcv i v => .setc i (Color.unpack v)
  | .setled i c => .setc i c
  | .reserved0 a d => .reserved0 a d
  | .reservedB a d => .reservedB a d
  | .reservedC a d => .reservedC a d
  | .reservedD a d => .reservedD a d
  | .reservedE a d => .reservedE a d
  | .reservedF a d => .reservedF a d
  | .t0 => .t0
  | .t1 => .t1
  | .trst => .trst

/-- The opcode of a command or reserved row (R55, R59); a symbol has none. -/
def Instr.opcode : Instr → Option (BitVec 4)
  | .init _ => some 0x1#4
  | .setc _ _ => some 0x2#4
  | .rdpx _ => some 0x3#4
  | .wrpx _ _ => some 0x4#4
  | .count => some 0x5#4
  | .enc => some 0x6#4
  | .cfg _ _ _ => some 0x7#4
  | .tx => some 0x8#4
  | .begin _ => some 0x9#4
  | .update => some 0xA#4
  | .setcv _ _ => some 0x2#4
  | .setled _ _ => some 0x2#4
  | .reserved0 _ _ => some 0x0#4
  | .reservedB _ _ => some 0xB#4
  | .reservedC _ _ => some 0xC#4
  | .reservedD _ _ => some 0xD#4
  | .reservedE _ _ => some 0xE#4
  | .reservedF _ _ => some 0xF#4
  | .t0 => none
  | .t1 => none
  | .trst => none

/-- The word of an instruction whose bits are the number `w`, bit 0 the least significant, as spec/opcode_table.json
numbers them: a row of at most 32 bits is an item word, a longer one a command word (log 20). -/
def tableWord (nbits w : Nat) : Option CodeWord :=
  if nbits ≤ 32 then
    if w < 2 ^ 32 then some (.item (BitVec.ofNat 32 w)) else none
  else
    if w < 2 ^ 68 then some (.command (BitVec.ofNat 68 w)) else none

/-- The instruction the decoder reads from such a number, none where it refuses. -/
def decodeTableWord (nbits w : Nat) : Option Instr :=
  match tableWord nbits w with
  | some cw => decode cw
  | none => none

end Sys2Proof
end

