-- ==== Sys2Proof/Machine/Encoder.lean ====
section
/-! DEFINITION. The pulse encoder as a pure function of the buffer (41_pulse_encoder.md R80 to R87), its left inverse
(R94), and the waveform of items on the line (R90, R91). -/

namespace Sys2Proof.Machine

/-- `Sym`: the symbol of one data bit (R81). -/
def sym (b : Bool) : Item := if b then symT1 else symT0

/-- `WireBytes`: green, red, blue, white (R82). -/
def wireBytes (c : Color) : List Byte := [c.g, c.r, c.b, c.w]

/-- `ByteBits`: the bits of a byte, most significant first (R83). -/
def byteBits (v : Byte) : List Bool :=
  [v.getLsbD 7, v.getLsbD 6, v.getLsbD 5, v.getLsbD 4, v.getLsbD 3, v.getLsbD 2, v.getLsbD 1, v.getLsbD 0]

/-- `EncPixel`: the 32 items of one pixel (R84). -/
def encPixel (c : Color) : List Item := ((wireBytes c).flatMap byteBits).map sym

/-- `Encode`: the frame of a buffer, the pixels in rising index order and then one reset item (R48, R85). -/
def encodeFrame (pb : List Color) : List Item := pb.flatMap encPixel ++ [symTRST]

/-- The wire word of a Color, `W(c)` (R37, R47). -/
def wireWord (c : Color) : BitVec 32 := c.g ++ c.r ++ c.b ++ c.w

/-- `Bit`: the data bit of an item, 0 for T0 and 1 for T1 (R94). DESIGN CHOICE (log 23), safe: 0 for every other item, of
which R94 says nothing. -/
def bitOf (it : Item) : Bool := decide (it = symT1)

/-- The number whose bits, most significant first, are the bits of the items (the sum in R94). -/
def itemsValue (s : List Item) : Nat := s.foldl (fun acc it => 2 * acc + (bitOf it).toNat) 0

/-- `DecodePixel`: the Color of 32 items (R94). -/
def decodePixel (s : List Item) : Color :=
  let word := BitVec.ofNat 32 (itemsValue s)
  { g := word.extractLsb' 24 8, r := word.extractLsb' 16 8, b := word.extractLsb' 8 8, w := word.extractLsb' 0 8 }

/-- `Decode`: the buffer of a frame (R94). -/
def decodeFrame (items : List Item) : List Color :=
  (List.range ((items.length - 1) / 32)).map (fun p => decodePixel ((items.drop (32 * p)).take 32))

/-- `WaveItem`: the levels of one item, one per tick (R50, R90). -/
def waveItem (it : Item) : List Level :=
  List.replicate it.duration0 it.level0 ++ List.replicate it.duration1 it.level1

/-- Ticks after which the line is low: a low tick is added where they end high (R91, R101; log 15). -/
def returnLow (ticks : List Level) : List Level :=
  if ticks.getLast? = some .H then ticks ++ [.L] else ticks

/-- `Wave`: the levels of a frame (R91). -/
def wave (items : List Item) : List Level := items.flatMap waveItem

/-- The real duration of some ticks, at the open tick period (R172, R173). -/
def ticksNs (ticks : Nat) : Nat := ticks * Config.tickNs

end Sys2Proof.Machine
end

