-- ==== Sys2Proof/Machine/State.lean ====
section
/-! DEFINITION. The state of one block instance (10_state.md R10 to R23), what is recorded beside it (R24, R27), the
reasons a step can stop, and the state after reset (R26, R150). -/

namespace Sys2Proof.Machine

/-- The operand fields of the transport configuration `CFGR` (R14). The four hardwired fields are the constants below. -/
structure Cfgr where
  pin : Byte
  channel : Byte
  clockDivisor : Byte
deriving DecidableEq, Repr

/-- The closed list of fault reasons (R131): what a faulting command writes into `fault` (R23, R130). -/
inductive FaultReason where
  /-- `F_ILLEGAL_OP`: a reserved opcode was accepted (R59). -/
  | illegalOp
  /-- `F_UNINIT`: SETC, RDPX, WRPX, COUNT, ENC, TX or UPDATE before INIT. -/
  | uninit
  /-- `F_REINIT`: INIT or BEGIN on a block that has its buffer. -/
  | reinit
  /-- `F_COUNT_RANGE`: INIT or BEGIN with `n > NMAX`. -/
  | countRange
  /-- `F_BOUNDS_READ`: RDPX outside `[0, N)` (R33). -/
  | boundsRead
  /-- `F_NOFRAME`: TX with no encoded frame. -/
  | noFrame
deriving DecidableEq, Repr

/-- The status of a response (R61). Status 3 is never produced, so it has no constructor (U13). -/
inductive Status where
  | ok
  | errConfig
  | errTransmit
deriving DecidableEq, Repr

/-- The response of a command that completes (R61). -/
structure Response where
  status : Status
  data : BitVec 32
deriving DecidableEq, Repr

/-- One entry of the event history `EV` (R27): an accepted command with its response, a peripheral call with its
arguments and its drawn answer, a completion event. The answer of a transmit call is its completion (R110). -/
inductive Event where
  | response (i : Instr) (r : Response)
  | configure (pin channel clockDivisor : Byte) (idleLevel : Level)
      (loopEnabled carrierEnabled idleOutputEnabled : Bool) (a : Config.Answer)
  | install (channel : Byte) (a : Config.Answer)
  | transmit (channel : Byte) (items : List Item) (blockUntilDone : Bool)
  | complete (a : Config.Answer)
deriving DecidableEq, Repr

/-- The command a transmission belongs to, which its completion answers (R107, R116). -/
inductive Caller where
  | tx
  | update
deriving DecidableEq, Repr

/-- What stands beside the block's own state and is none of it: the client's program and the peripheral's choices, which
are the machine's inputs (R140; R25 keeps both out of the block's state), and the histories, its outputs (R24, R27). -/
structure Env where
  /-- The command words the client has not issued yet, the next one first (R140; log 1). -/
  program : List (BitVec 68)
  /-- The free values that the next use of one takes (R25; log 2). -/
  next : Config.Draw
  /-- How many draws have been made (log 2). -/
  drawn : Nat
  /-- The command whose transmission is in progress while `busy` (log 6). -/
  caller : Caller
  /-- The items handed over in the current `P.transmit` (R95, R96). -/
  emitted : List Item
  /-- The event history `EV`, oldest first (R27). The machine never reads it. -/
  events : List Event
  /-- The line history `LINE`, one Level a tick, oldest first (R24, R91). The machine never reads it. -/
  line : List Level
  /-- A CFG (or BEGIN) has once succeeded: from then on the idle line is low (R24, R26; log 14). -/
  lineHeld : Bool
deriving DecidableEq, Repr

/-- The state of one block instance: exactly the tuple of R10, with nothing of what R25 keeps out of it. `PB` lists the
entries of the pixel buffer that differ from `ZERO` as (index, Color) pairs in rising index order (log 7); its sequence
view is `pixels` in Machine/Ops.lean. -/
structure Block where
  /-- INIT or BEGIN has completed without fault (R13). -/
  init : Bool
  /-- The LED count (R11). -/
  N : Nat
  /-- The pixel buffer (R12). -/
  PB : List (Nat × Color)
  /-- The transport configuration (R14). -/
  CFGR : Cfgr
  /-- The latest CFG ended with both peripheral answers ok (R15). -/
  ready : Bool
  /-- The item store (R20). -/
  IS : List Item
  /-- The item store holds a frame (R20). -/
  isValid : Bool
  /-- A frame is in the hands of the peripheral (R21). -/
  busy : Bool
  /-- The generator position: how many items of `IS` the peripheral has taken (R22). -/
  pos : Nat
  /-- The recorded fault reason (R23). -/
  fault : Option FaultReason
deriving DecidableEq, Repr

/-- The state of the machine: the block's own, and the environment of the block beside it. -/
structure State extends Block where
  /-- The client, the peripheral and the histories. -/
  env : Env
deriving DecidableEq, Repr

/-- Why the machine stops with a fault. -/
inductive Fault where
  /-- A faulted block has no further step (R130, R134 check 1). Raised by `step` in a state whose `fault` is set and by
  every meaning performed there; safe: the spec gives no step. -/
  | blockFaulted (r : FaultReason)
deriving DecidableEq, Repr

/-- Why a step has no meaning. -/
inductive Refusal where
  /-- An instruction whose meaning is not written yet; raised by `exec` only; safe. -/
  | notModelled (mnemonic : String)
  /-- A symbol performed while no item is to be taken: the generator step is not enabled (R96, R97). Raised by the
  meanings of T0, T1 and TRST outside a transmission, never by `step`; safe: the spec gives no such step. -/
  | noItemStep
deriving DecidableEq, Repr

/-- The state after power-on reset (R26, R150). `N`, `PB`, the fields of `CFGR`, `IS` and `pos` have no value there in
the spec; the ones here are the model's (log 5), as are those of the environment (log 1, 2, 6). -/
def State.reset : State where
  init := false
  N := 0
  PB := []
  CFGR := ⟨0, 0, 0⟩
  ready := false
  IS := []
  isValid := false
  busy := false
  pos := 0
  fault := none
  env :=
    { program := [], next := Config.draw 0, drawn := 1, caller := .tx, emitted := [], events := [], line := [],
      lineHeld := false }

end Sys2Proof.Machine
end

