-- ==== Sys2Proof/Machine/Operands.lean ====
section
/-! DEFINITION. Operand forms: the range test of a pixel index (R31), the hardwired configuration fields (R14, R16), the
packed response (R61), and the two callers of a transmission. -/

namespace Sys2Proof.Machine

/-- The range test: `0 <= i` and `i < N`, an exact comparison of integers (R31). -/
def inRange (n : Nat) (i : Int) : Bool := decide (0 ≤ i) && decide (i < (n : Int))

/-- The entry an in-range index names (R30). -/
def pixelIndex (i : Int) : Nat := i.toNat

/-- `CFGR.idleLevel`, hardwired low (R14). -/
def Cfgr.idleLevel (_ : Cfgr) : Level := .L

/-- `CFGR.loopEnabled`, hardwired false (R14). -/
def Cfgr.loopEnabled (_ : Cfgr) : Bool := false

/-- `CFGR.carrierEnabled`, hardwired false (R14). -/
def Cfgr.carrierEnabled (_ : Cfgr) : Bool := false

/-- `CFGR.idleOutputEnabled`, hardwired true (R14). -/
def Cfgr.idleOutputEnabled (_ : Cfgr) : Bool := true

/-- The flag the block always passes to `P.transmit` (R103). -/
def blockUntilDone : Bool := true

/-- The clock divisor BEGIN configures (R4 `CLKDIV`, R115). -/
def beginDivisor : Byte := 2

/-- The number of a status (R61). -/
def Status.code : Status → BitVec 2
  | .ok => 0#2
  | .errConfig => 1#2
  | .errTransmit => 2#2

/-- The 34-bit response: `status` in 33:32, `data` in 31:0 (R61). -/
def Response.pack (r : Response) : BitVec 34 := r.status.code ++ r.data

/-- The command that started a transmission (R107, R116). -/
def Caller.instr : Caller → Instr
  | .tx => .tx
  | .update => .update

/-- The status an answer of `P.transmit` gives (R107). -/
def transmitStatus : Config.Answer → Status
  | .ok => .ok
  | .error => .errTransmit

end Sys2Proof.Machine
end

