-- ==== Sys2Proof/Machine/Ops.lean ====
section
/-! DEFINITION. The named operations over the pixel buffer, the histories, the fault register and a transmission. Every
meaning is written with these. -/

namespace Sys2Proof.Machine

/-! ## The pixel buffer as memory (R12, R30, R38; log 7) -/

/-- What an entry that is not listed reads as: INIT leaves every entry `ZERO` (R12, R65). -/
def unlisted : Color := Color.zero

/-- Read of one entry. -/
def readPixel : List (Nat × Color) → Nat → Color
  | [], _ => unlisted
  | (j, c) :: rest, k => if j = k then c else readPixel rest k

/-- Write of one whole entry (R35). The list stays in rising index order and never lists an unlisted value. -/
def writePixel : List (Nat × Color) → Nat → Color → List (Nat × Color)
  | [], k, c => if c = unlisted then [] else [(k, c)]
  | (j, d) :: rest, k, c =>
    if k < j then (if c = unlisted then (j, d) :: rest else (k, c) :: (j, d) :: rest)
    else if k = j then (if c = unlisted then rest else (k, c) :: rest)
    else (j, d) :: writePixel rest k c

/-- The canonical form of the pixel buffer: indices strictly rising, no entry equal to what an unlisted one reads as. -/
abbrev Memory.wf (pb : List (Nat × Color)) : Prop :=
  pb.Pairwise (fun x y => x.1 < y.1) ∧ ∀ x ∈ pb, x.2 ≠ unlisted

/-- Every listed entry lies in `[0, n)` (R12, R38). -/
abbrev Memory.within (n : Nat) (pb : List (Nat × Color)) : Prop := ∀ x ∈ pb, x.1 < n

/-- `PB` as the spec writes it: the sequence `[PB[0], ..., PB[N-1]]` (R12). -/
def pixels (s : State) : List Color := (List.range s.N).map (readPixel s.PB)

/-- The write of SETC and WRPX: the entry when the index is in range, nothing otherwise (R32). -/
def storePixel (i : Int) (c : Color) (s : State) : State :=
  if inRange s.N i then { s with PB := writePixel s.PB (pixelIndex i) c } else s

/-- `MemRead(i, n)`: the entries `i` to `i + n - 1`, defined only inside the buffer (00_scope.md 4.3, R70). -/
def memRead (i : Int) (n : Nat) (s : State) : Option (List Color) :=
  if decide (0 ≤ i) && decide (i + (n : Int) ≤ (s.N : Int)) then
    some ((List.range n).map (fun k => readPixel s.PB (pixelIndex i + k)))
  else none

/-- `MemWrite(i, n, v)`: the Colors `v` into the entries from `i` on, in increasing order, defined only inside the buffer
(00_scope.md 4.3, R70). -/
def memWrite (i : Int) (v : List Color) (s : State) : Option State :=
  if decide (0 ≤ i) && decide (i + (v.length : Int) ≤ (s.N : Int)) then
    some { s with PB := (v.zipIdx (pixelIndex i)).foldl (fun pb x => writePixel pb x.2 x.1) s.PB }
  else none

/-- INIT's writes: `n` entries of `ZERO` (R65). -/
def createBuffer (n : Nat) (s : State) : State := { s with N := n, PB := [], init := true }

/-! ## Histories and free values -/

/-- Append an entry to the event history (R27). -/
def record (e : Event) (s : State) : State := { s with env := { s.env with events := s.env.events ++ [e] } }

/-- `return (status, data)`: the command completes and its response is delivered (R61, R135). -/
def respond (i : Instr) (st : Status) (data : BitVec 32) (s : State) : State := record (.response i ⟨st, data⟩) s

/-- Take the next draw: the free values used so far are not used again (R25; log 2). -/
def redraw (s : State) : State :=
  { s with env := { s.env with next := Config.draw s.env.drawn, drawn := s.env.drawn + 1 } }

/-- Append ticks to the line history (R24). -/
def driveLine (ticks : List Level) (s : State) : State := { s with env := { s.env with line := s.env.line ++ ticks } }

/-- The level of the line at tick `k` between frames: low once a CFG has succeeded, any value before (R24, R26; log 14). -/
def idleLine (s : State) (k : Nat) : Level := if s.env.lineHeld then .L else Config.lineBeforeConfigure k

/-- A CFG has succeeded: the line is idle low from now on. Before the first one its ticks were at any level, and it is low
for a tick at least when it becomes idle (R24, R91, R111; log 14, 15). -/
def holdLine (s : State) : State :=
  if s.env.lineHeld then s
  else
    let t := driveLine ((List.range s.env.next.idleTicks).map Config.lineBeforeConfigure ++ [.L]) s
    { t with env := { t.env with lineHeld := true } }

/-- The next command word leaves the client's program: it has been accepted at the command port (R140, R141; log 1). -/
def popWord (s : State) : State := { s with env := { s.env with program := s.env.program.tail } }

/-! ## Taking a fault -/

/-- Taking a fault, the block's only exception: the reason is recorded and nothing else changes (R130). There is no
handler, no saved counter and no return from it (R125, R136). -/
def raiseFault (r : FaultReason) (s : State) : State := { s with fault := some r }

/-! ## Encoding, configuring, transmitting -/

/-- ENC's writes: a fresh frame in the item store (R20, R88). -/
def loadFrame (s : State) : State := { s with IS := encodeFrame (pixels s), isValid := true }

/-- `P.configure` with all seven values of `CFGR` (R101). -/
def callConfigure (s : State) : State :=
  record (.configure s.CFGR.pin s.CFGR.channel s.CFGR.clockDivisor s.CFGR.idleLevel s.CFGR.loopEnabled
    s.CFGR.carrierEnabled s.CFGR.idleOutputEnabled s.env.next.configure) s

/-- `P.install` on the configured channel (R102). -/
def callInstall (s : State) : State := record (.install s.CFGR.channel s.env.next.install) s

/-- The body of CFG, performed for the command `i` (R105): `CFGR` written and `ready` cleared, then configure, then only
after its ok install, `ready` set only after both (decision D18); after both the idle line is low (R24). -/
def configureTransport (i : Instr) (pin channel clockDivisor : Byte) (s : State) : State :=
  let asked := callConfigure { s with CFGR := ⟨pin, channel, clockDivisor⟩, ready := false }
  redraw (match s.env.next.configure, s.env.next.install with
    | .error, _ => respond i .errConfig 0 asked
    | .ok, .error => respond i .errConfig 0 (callInstall asked)
    | .ok, .ok => respond i .ok 0 { holdLine (callInstall asked) with ready := true })

/-- The hand-over of the frame: `pos` 0, `busy`, an empty transaction, after the idle ticks that have passed
(R91, R95, R108 step 1). The answer is not there yet. -/
def startTransmission (by' : Caller) (s : State) : State :=
  let t := record (.transmit s.CFGR.channel s.IS blockUntilDone)
    (driveLine (List.replicate s.env.next.idleTicks .L) { s with pos := 0, busy := true })
  redraw { t with env := { t.env with caller := by', emitted := [] } }

/-- The body of TX behind its faults (R107): fail fast on an unconfigured transport, the frame discarded and nothing
sent; else start the transmission. -/
def transmitFrame (by' : Caller) (s : State) : State :=
  if s.ready then startTransmission by' s
  else respond by'.instr .errTransmit 0 { s with isValid := false }

/-- One generator step, `emit(item)` and `pos <- pos + 1` (R96). -/
def emitItem (it : Item) (s : State) : State :=
  redraw { s with pos := s.pos + 1, env := { s.env with emitted := s.env.emitted ++ [it] } }

/-- What the line carried in the transmission that ends with this answer, the idle low it returns to included: the wave of
the items, or any value (R91, R103, R109; log 15). -/
def carried (a : Config.Answer) (s : State) : List Level :=
  match a with
  | .ok => wave s.env.emitted
  | .error => returnLow s.env.next.failed

/-- The completion step (R107, R108 step 3): the completion event, then `busy` and `is_valid` cleared, then the response
of the waiting command (R110). -/
def completeTransmission (a : Config.Answer) (s : State) : State :=
  let t := driveLine (carried a s) (record (.complete a) { s with busy := false, isValid := false })
  redraw (respond s.env.caller.instr (transmitStatus a) 0 t)

/-- The meaning of a symbol: the peripheral takes this item, enabled only while a transmission has items left (R96).
DESIGN CHOICE (log 24), safe: performed by `exec` where `IS[pos]` is another item, of which the spec says nothing, the
symbol performed is the one that is emitted; `step` performs only the symbol at `pos`. -/
def takeItem (it : Item) (s : State) : Host.Outcome State Fault Refusal :=
  match s.fault with
  | some r => .fault (.blockFaulted r)
  | none => if s.busy && decide (s.pos < s.IS.length) then .next (emitItem it s) else .refused .noItemStep

end Sys2Proof.Machine
end

