-- ==== Sys2Proof/Machine/Flags.lean ====
section
/-! DEFINITION. The checks on the five internal flags `init`, `ready`, `is_valid`, `busy`, `fault` (R17), in the order of
R134. No flag is a condition code; the checks on `ready` and the flags' writes stand in the operations of Ops.lean. -/

namespace Sys2Proof.Machine

/-- The common acceptance checks (R134, checks 1 and 2): a faulted block has no step, a busy block holds the command and
nothing changes (R133); otherwise the command is performed. -/
def accept (body : State → State) (s : State) : Host.Outcome State Fault Refusal :=
  match s.fault with
  | some r => .fault (.blockFaulted r)
  | none => if s.busy then .next s else .next (body s)

/-- Check 5 of R134: a command that needs the buffer faults before INIT. -/
def needInit (body : State → State) (s : State) : State := if s.init then body s else raiseFault .uninit s

/-- Checks 4 and 6 of R134: INIT and BEGIN fault on a second buffer, then on a count above `NMAX`. -/
def needFresh (n : Nat) (body : State → State) (s : State) : State :=
  if s.init then raiseFault .reinit s
  else if Config.nmax < n then raiseFault .countRange s
  else body s

/-- Check 8 of R134: TX faults when the item store holds no frame. -/
def needFrame (body : State → State) (s : State) : State := if s.isValid then body s else raiseFault .noFrame s

/-- Check 7 of R134: RDPX faults on an index outside `[0, N)` (R33). -/
def needInRange (i : Int) (body : State → State) (s : State) : State :=
  if inRange s.N i then body s else raiseFault .boundsRead s

end Sys2Proof.Machine
end

