-- ==== Sys2Proof/Machine/Facade.lean ====
section
/-! DEFINITION. The composed commands BEGIN and UPDATE (R115, R116). -/

namespace Sys2Proof.Machine

/-- `BEGIN n`: the buffer first, then the transport with `PIN`, `CHANNEL`, 2; no rollback (R115). -/
def execBegin (n : Nat) (s : State) : Host.Outcome State Fault Refusal :=
  accept (needFresh n (fun t =>
    configureTransport (.begin n) Config.pin Config.channel beginDivisor (createBuffer n t))) s

/-- `UPDATE`: encode, then transmit, as one command (R116). -/
def execUpdate (s : State) : Host.Outcome State Fault Refusal :=
  accept (needInit (fun t => transmitFrame .update (loadFrame t))) s

end Sys2Proof.Machine
end

