-- ==== Sys2Proof/Machine/PixelBuffer.lean ====
section
/-! DEFINITION. The pixel-buffer commands INIT, SETC (and its aliases SETCV, SETLED), RDPX, WRPX, COUNT (R63, R65 to R69). -/

namespace Sys2Proof.Machine

/-- SETC and WRPX behind acceptance: write if in range, answer `(OK, 0)` in every case (R32, R66, R68). -/
def performWrite (cmd : Instr) (i : Int) (c : Color) (s : State) : Host.Outcome State Fault Refusal :=
  accept (needInit (fun t => respond cmd .ok 0 (storePixel i c t))) s

/-- `INIT n` (R65). -/
def execInit (n : Nat) (s : State) : Host.Outcome State Fault Refusal :=
  accept (needFresh n (fun t => respond (.init n) .ok 0 (createBuffer n t))) s

/-- `SETC i, c` (R66). -/
def execSetc (i : Int) (c : Color) (s : State) : Host.Outcome State Fault Refusal :=
  performWrite (.setc i c) i c s

/-- `RDPX i` (R67). -/
def execRdpx (i : Int) (s : State) : Host.Outcome State Fault Refusal :=
  accept (needInit (needInRange i
    (fun t => respond (.rdpx i) .ok (readPixel t.PB (pixelIndex i)).pack t))) s

/-- `WRPX i, c` (R68). -/
def execWrpx (i : Int) (c : Color) (s : State) : Host.Outcome State Fault Refusal :=
  performWrite (.wrpx i c) i c s

/-- `COUNT` (R69). -/
def execCount (s : State) : Host.Outcome State Fault Refusal :=
  accept (needInit (fun t => respond .count .ok (BitVec.ofNat 32 t.N) t)) s

/-- `SETCV i, v`: the command SETC with the Color packed in `v` (R63). It is recorded as the SETC it is (log 12). -/
def execSetcv (i : Int) (v : BitVec 32) (s : State) : Host.Outcome State Fault Refusal :=
  performWrite (.setc i (Color.unpack v)) i (Color.unpack v) s

/-- `SETLED i, c`: the facade's name for SETC, with nothing added (R63, R119; log 12). -/
def execSetled (i : Int) (c : Color) (s : State) : Host.Outcome State Fault Refusal :=
  performWrite (.setc i c) i c s

end Sys2Proof.Machine
end

