-- ==== Sys2Proof/Machine/PulseEncoder.lean ====
section
/-! DEFINITION. The command ENC (R88) and the three symbols, which are what the generator performs (R52, R96). -/

namespace Sys2Proof.Machine

/-- `ENC`: encode the buffer into the item store; the response is the length of the frame (R88). -/
def execEnc (s : State) : Host.Outcome State Fault Refusal :=
  accept (needInit (fun t => respond .enc .ok (BitVec.ofNat 32 (32 * t.N + 1)) (loadFrame t))) s

/-- `T0`: the item of a 0 bit goes to the peripheral (R52, R96). -/
def execT0 (s : State) : Host.Outcome State Fault Refusal := takeItem symT0 s

/-- `T1`: the item of a 1 bit goes to the peripheral (R52, R96). -/
def execT1 (s : State) : Host.Outcome State Fault Refusal := takeItem symT1 s

/-- `TRST`: the reset item goes to the peripheral (R52, R96). -/
def execTrst (s : State) : Host.Outcome State Fault Refusal := takeItem symTRST s

end Sys2Proof.Machine
end

