-- ==== Sys2Proof/Machine/Reserved.lean ====
section
/-! DEFINITION. The six reserved opcodes: accepted like a command, they fault with `F_ILLEGAL_OP` whatever the rest of
the state and whatever `a` and `d` hold (R59, R134 check 3). -/

namespace Sys2Proof.Machine

/-- An accepted word with a reserved opcode (R59). -/
def illegalOpcode (s : State) : Host.Outcome State Fault Refusal := accept (raiseFault .illegalOp) s

/-- Opcode `0x0` (R59). -/
def execReserved0 (_a _d : BitVec 32) (s : State) : Host.Outcome State Fault Refusal := illegalOpcode s

/-- Opcode `0xB` (R59). -/
def execReservedB (_a _d : BitVec 32) (s : State) : Host.Outcome State Fault Refusal := illegalOpcode s

/-- Opcode `0xC` (R59). -/
def execReservedC (_a _d : BitVec 32) (s : State) : Host.Outcome State Fault Refusal := illegalOpcode s

/-- Opcode `0xD` (R59). -/
def execReservedD (_a _d : BitVec 32) (s : State) : Host.Outcome State Fault Refusal := illegalOpcode s

/-- Opcode `0xE` (R59). -/
def execReservedE (_a _d : BitVec 32) (s : State) : Host.Outcome State Fault Refusal := illegalOpcode s

/-- Opcode `0xF` (R59). -/
def execReservedF (_a _d : BitVec 32) (s : State) : Host.Outcome State Fault Refusal := illegalOpcode s

end Sys2Proof.Machine
end

