-- ==== Sys2Proof/Machine/Transport.lean ====
section
/-! DEFINITION. The transport commands CFG and TX (R105, R107). -/

namespace Sys2Proof.Machine

/-- `CFG pin, channel, clockDivisor`: legal before INIT, no operand checked (R105). -/
def execCfg (pin channel clockDivisor : Byte) (s : State) : Host.Outcome State Fault Refusal :=
  accept (configureTransport (.cfg pin channel clockDivisor) pin channel clockDivisor) s

/-- `TX`: hand the frame of the item store to the peripheral; the response follows its completion (R107, R108). -/
def execTx (s : State) : Host.Outcome State Fault Refusal :=
  accept (needInit (needFrame (transmitFrame .tx))) s

end Sys2Proof.Machine
end

