-- ==== Sys2Proof/Machine/Dispatch.lean ====
section
/-! DEFINITION. One arm for each row of the opcode table. -/

namespace Sys2Proof.Machine

def exec (i : Instr) (s : State) : Host.Outcome State Fault Refusal :=
  match i with
  | .init n => Sys2Proof.Machine.execInit n s
  | .setc idx c => Sys2Proof.Machine.execSetc idx c s
  | .rdpx idx => Sys2Proof.Machine.execRdpx idx s
  | .wrpx idx c => Sys2Proof.Machine.execWrpx idx c s
  | .count => Sys2Proof.Machine.execCount s
  | .enc => Sys2Proof.Machine.execEnc s
  | .cfg pin channel clockDivisor => Sys2Proof.Machine.execCfg pin channel clockDivisor s
  | .tx => Sys2Proof.Machine.execTx s
  | .begin n => Sys2Proof.Machine.execBegin n s
  | .update => Sys2Proof.Machine.execUpdate s
  | .setcv idx v => Sys2Proof.Machine.execSetcv idx v s
  | .setled idx c => Sys2Proof.Machine.execSetled idx c s
  | .reserved0 a d => Sys2Proof.Machine.execReserved0 a d s
  | .reservedB a d => Sys2Proof.Machine.execReservedB a d s
  | .reservedC a d => Sys2Proof.Machine.execReservedC a d s
  | .reservedD a d => Sys2Proof.Machine.execReservedD a d s
  | .reservedE a d => Sys2Proof.Machine.execReservedE a d s
  | .reservedF a d => Sys2Proof.Machine.execReservedF a d s
  | .t0 => Sys2Proof.Machine.execT0 s
  | .t1 => Sys2Proof.Machine.execT1 s
  | .trst => Sys2Proof.Machine.execTrst s

end Sys2Proof.Machine
end

