-- ==== Sys2Proof/Machine/Fetch.lean ====
section
/-! DEFINITION. What the next step is about: a word at the command port, an item of the frame in flight, or a turn of the
peripheral or the client that performs no instruction (R96, R108, R140). -/

namespace Sys2Proof.Machine

/-- The next step: an instruction to perform in a state, or a move that is not an instruction. -/
inductive Fetched where
  | perform (i : Instr) (s : State)
  | moved (o : Host.Outcome State Fault Refusal)

/-- The command port: the next word is accepted and leaves the client's program. With no word the block waits for the
client (R151, R174; log 1). -/
def fetchCommand (s : State) : Fetched :=
  match s.env.program with
  | [] => .moved (.next s)
  | w :: _ => .perform (decodeCommand w) (popWord s)

/-- The peripheral's turn (R96, R103, R108): let time pass, end with an error, take the item at `pos`, or end with ok
when every item is taken. An item that is no symbol is emitted as it is; the block cannot make one (R54; log 13). -/
def fetchItem (s : State) : Fetched :=
  match s.env.next.move with
  | .wait => .moved (.next (redraw s))
  | .fail => .moved (.next (completeTransmission .error s))
  | .go =>
    match s.IS[s.pos]? with
    | none => .moved (.next (completeTransmission .ok s))
    | some it =>
      match symbolOf it with
      | some i => .perform i s
      | none => .moved (.next (emitItem it s))

/-- The next step of the machine: none when faulted (R130), the peripheral's while busy (R133), else the command port. -/
def fetch (s : State) : Fetched :=
  match s.fault with
  | some r => .moved (.fault (.blockFaulted r))
  | none => if s.busy then fetchItem s else fetchCommand s

/-- Place a command word where the next command is fetched: at the command port of a block that accepts one. -/
def placeCommand (w : BitVec 68) (s : State) : State :=
  { s with busy := false, fault := none, env := { s.env with program := w :: s.env.program.tail } }

/-- Place an item where the next item is fetched: at `pos` of the frame in flight, the peripheral about to take it. -/
def placeItem (it : Item) (s : State) : State :=
  let t := { s with busy := true, fault := none, env := { s.env with next := { s.env.next with move := .go } } }
  if s.pos < s.IS.length then { t with IS := s.IS.set s.pos it } else { t with IS := [it], pos := 0 }

/-- Place the instruction whose bits are `w` where the next step fetches it; a number too wide for its word places nothing. -/
def placeWord (s : State) (nbits w : Nat) : State :=
  match tableWord nbits w with
  | some (.command v) => placeCommand v s
  | some (.item v) => placeItem (Item.unpack v) s
  | none => s

end Sys2Proof.Machine
end

