-- ==== Sys2Proof/Machine/Step.lean ====
section
/-! DEFINITION. One step of the machine: fetch, then perform the instruction that was fetched. -/

namespace Sys2Proof.Machine

/-- One step of one agent (R108, R140, R174). -/
def step (s : State) : Host.Outcome State Fault Refusal :=
  match fetch s with
  | .perform i t => exec i t
  | .moved o => o

/-- The state with one instruction stored where `step` fetches its next one (log 1, log 4). -/
def State.withFetchWord (s : State) (nbits w : Nat) : State := placeWord s nbits w

end Sys2Proof.Machine
end

