-- ==== Sys2Proof/Safety.lean ====
section
/-! DEFINITION. The terms claims are made in: an accepting block, a final state, a run without a fault, and the invariant
of the reachable states (R27, R171). -/

namespace Sys2Proof.Machine

/-- The block accepts a command: checks 1 and 2 of R134 pass. -/
abbrev State.accepting (s : State) : Prop := s.fault = none ∧ s.busy = false

/-- A final state: every command answered, not busy, no fault (R171). -/
abbrev State.final (s : State) : Prop := s.env.program = [] ∧ s.busy = false ∧ s.fault = none

/-- A run of `k` steps that reaches a final state: what a claim about a run proves of its end (R130, R171). -/
def endsSafely (k : Nat) (s : State) : Prop := ∃ t, Sys2Proof.core.run k s = .next t ∧ t.final

/-- The data items of a valid frame and its last item (R27 point 3). -/
structure FrameShape (n : Nat) (items : List Item) : Prop where
  length_eq : items.length = 32 * n + 1
  last_item : items[32 * n]? = some symTRST
  data_item : ∀ j, j < 32 * n → items[j]? = some symT0 ∨ items[j]? = some symT1

/-- The invariant of the reachable states: R27 points 1, 3 and 4, the canonical pixel buffer, what a transmission in flight
has handed over (R95, R96), and the idle line low once a CFG has succeeded (R24, R91). -/
structure Inv (s : State) : Prop where
  count_le : s.init = true → s.N ≤ Config.nmax
  buffer_wf : Memory.wf s.PB
  buffer_within : Memory.within s.N s.PB
  frame_init : s.isValid = true → s.init = true
  frame_shape : s.isValid = true → FrameShape s.N s.IS
  busy_valid : s.busy = true → s.isValid = true
  busy_ready : s.busy = true → s.ready = true
  busy_sound : s.busy = true → s.fault = none
  busy_pos : s.busy = true → s.pos ≤ 32 * s.N + 1
  busy_emitted : s.busy = true → s.env.emitted = s.IS.take s.pos
  ready_held : s.ready = true → s.env.lineHeld = true
  held_low : s.env.lineHeld = true → s.env.line.getLast? = some .L

end Sys2Proof.Machine
end

