-- ==== Sys2Proof/Certificates/Slice0/Obligations.lean ====
section
/-! DEFINITION. The statements for the provers, each with the rule of spec/ it formalises. The helper definitions before
them spell out what a statement says of a state, apart from the model's own operations. -/

namespace Sys2Proof.Claims

open Sys2Proof.Machine

/-- `s` with one response appended to the event history and nothing else changed (R27, R61). -/
def delivered (s : State) (i : Instr) (st : Status) (d : BitVec 32) : State :=
  { s with env := { s.env with events := s.env.events ++ [.response i ⟨st, d⟩] } }

/-- `s` with the fault reason recorded and nothing else changed (R130). -/
def faulted (s : State) (r : FaultReason) : State := { s with fault := some r }

/-- Both peripheral calls of a configuration answer ok in the draw `s` is about to take (R105). -/
def bothOk (s : State) : Bool :=
  decide (s.env.next.configure = .ok) && decide (s.env.next.install = .ok)

/-- The events of CFG's body performed for the command `i` (R101, R102, R105): the install call only after an ok of
configure, then the response. -/
def configureEvents (s : State) (i : Instr) (pin channel clockDivisor : Byte) : List Event :=
  [.configure pin channel clockDivisor .L false false true s.env.next.configure]
    ++ (if s.env.next.configure = .ok then [.install channel s.env.next.install] else [])
    ++ [.response i ⟨if bothOk s then .ok else .errConfig, 0⟩]

/-- The client's program and the transmission bookkeeping are as before. -/
def clientKept (s t : State) : Prop :=
  t.env.program = s.env.program ∧ t.env.caller = s.env.caller ∧ t.env.emitted = s.env.emitted

/-- The entries of the event history added from `s` to `t`. -/
def newEvents (s t : State) : List Event := t.env.events.drop s.env.events.length

/-- A call to the peripheral (R141). -/
def isCall : Event → Bool
  | .response _ _ => false
  | .configure _ _ _ _ _ _ _ _ => true
  | .install _ _ => true
  | .transmit _ _ _ => true
  | .complete _ => false

/-- A command with the effect of SETC on entry `i` (R32, R66, R68), answered as the command `shown`. That a buffer is in
canonical form is the premise StepKeepsInvariant keeps. -/
def WritesOnePixel (cmd shown : Instr) (i : Int) (c : Color) : Prop :=
  ∀ s : State, s.accepting →
    (s.init = false → exec cmd s = .next (faulted s .uninit)) ∧
    (s.init = true → ¬ (0 ≤ i ∧ i < (s.N : Int)) → exec cmd s = .next (delivered s shown .ok 0)) ∧
    (s.init = true → 0 ≤ i → i < (s.N : Int) → Memory.wf s.PB →
      ∃ t, exec cmd s = .next t ∧
        pixels t = (pixels s).set (pixelIndex i) c ∧
        (∀ k, k ≠ pixelIndex i → readPixel t.PB k = readPixel s.PB k) ∧
        (readPixel s.PB (pixelIndex i) = c → t.PB = s.PB) ∧
        t = { delivered s shown .ok 0 with PB := t.PB })

/-- The hand-over of the frame `items` from `s`, after the block fields of `s` were changed to those of `u` (R95, R107). -/
def HandsOver (s u t : State) (c : Caller) (items : List Item) : Prop :=
  t = { u with pos := 0, busy := true, env := t.env } ∧
    t.env.events = s.env.events ++ [.transmit s.CFGR.channel items true] ∧
    t.env.emitted = [] ∧ t.env.caller = c ∧ t.env.program = s.env.program

/-- What follows the hand-over for a command of caller `c` (R107, R108): the block waits while the peripheral lets time
pass, and the completion clears `busy` and `is_valid` and delivers the response of that command. -/
def CompletesFor (c : Caller) (cmd : Instr) : Prop :=
  ∀ s : State, s.fault = none → s.busy = true → s.env.caller = c →
    (s.env.next.move = .wait →
      ∃ t, step s = .next t ∧ t = { s with env := t.env } ∧ t.env.events = s.env.events) ∧
    (s.env.next.move = .fail →
      ∃ t, step s = .next t ∧ t = { s with busy := false, isValid := false, env := t.env } ∧
        t.env.events = s.env.events ++ [.complete .error, .response cmd ⟨.errTransmit, 0⟩]) ∧
    (s.env.next.move = .go → s.pos = s.IS.length →
      ∃ t, step s = .next t ∧ t = { s with busy := false, isValid := false, env := t.env } ∧
        t.env.events = s.env.events ++ [.complete .ok, .response cmd ⟨.ok, 0⟩])

/-- One item is handed over and `pos` advances by one; nothing else of the block changes (R96). -/
def EmitsItem (it : Item) (s t : State) : Prop :=
  t = { s with pos := s.pos + 1, env := t.env } ∧
    t.env.emitted = s.env.emitted ++ [it] ∧ t.env.events = s.env.events ∧
    t.env.program = s.env.program ∧ t.env.caller = s.env.caller

/-- Check 5 of R134 for a command that needs the buffer. -/
def uninitCheck (s : State) : Option FaultReason := if s.init = true then none else some .uninit

/-- Checks 4 and 6 of R134 for INIT and BEGIN. -/
def freshCheck (n : Nat) (s : State) : Option FaultReason :=
  if s.init = true then some .reinit else if Config.nmax < n then some .countRange else none

/-- Checks 5 and 7 of R134 for RDPX. -/
def readCheck (i : Int) (s : State) : Option FaultReason :=
  if s.init = true then (if 0 ≤ i ∧ i < (s.N : Int) then none else some .boundsRead) else some .uninit

/-- Checks 5 and 8 of R134 for TX. -/
def frameCheck (s : State) : Option FaultReason :=
  if s.init = true then (if s.isValid = true then none else some .noFrame) else some .uninit

/-- The first fault check of R134 (checks 3 to 8) that applies to a command in a state, if one does. -/
def firstFault (i : Instr) (s : State) : Option FaultReason :=
  match i with
  | .init n => freshCheck n s
  | .setc _ _ => uninitCheck s
  | .rdpx k => readCheck k s
  | .wrpx _ _ => uninitCheck s
  | .count => uninitCheck s
  | .enc => uninitCheck s
  | .cfg _ _ _ => none
  | .tx => frameCheck s
  | .begin n => freshCheck n s
  | .update => uninitCheck s
  | .setcv _ _ => uninitCheck s
  | .setled _ _ => uninitCheck s
  | .reserved0 _ _ => some .illegalOp
  | .reservedB _ _ => some .illegalOp
  | .reservedC _ _ => some .illegalOp
  | .reservedD _ _ => some .illegalOp
  | .reservedE _ _ => some .illegalOp
  | .reservedF _ _ => some .illegalOp
  | .t0 => none
  | .t1 => none
  | .trst => none

/-- Checks 10 and 11 of R134: the status of a configuration. -/
def configureStatus (s : State) : Status := if bothOk s then .ok else .errConfig

/-- Check 9 of R134: the status of a transmission that is refused, none when the frame is handed over. -/
def transmitCheck (s : State) : Option Status := if s.ready = true then none else some .errTransmit

/-- The status R134 (checks 9, 10, 11, 13) gives a command that does not fault, none when a frame is handed over and the
status waits for the completion. A reserved opcode and a symbol get no status. -/
def statusAtOnce (i : Instr) (s : State) : Option Status :=
  match i with
  | .init _ => some .ok
  | .setc _ _ => some .ok
  | .rdpx _ => some .ok
  | .wrpx _ _ => some .ok
  | .count => some .ok
  | .enc => some .ok
  | .cfg _ _ _ => some (configureStatus s)
  | .tx => transmitCheck s
  | .begin _ => some (configureStatus s)
  | .update => transmitCheck s
  | .setcv _ _ => some .ok
  | .setled _ _ => some .ok
  | .reserved0 _ _ => none
  | .reservedB _ _ => none
  | .reservedC _ _ => none
  | .reservedD _ _ => none
  | .reservedE _ _ => none
  | .reservedF _ _ => none
  | .t0 => none
  | .t1 => none
  | .trst => none

/-- Instructions performed one after the other (R70). -/
def performAll : List Instr → State → Host.Outcome State Fault Refusal
  | [], s => .next s
  | i :: rest, s =>
    match exec i s with
    | .next t => performAll rest t
    | .fault r => .fault r
    | .refused r => .refused r

/-- The WRPX commands that write the Colors `v` into the entries from `k` on, in increasing order (R70). -/
def batchWrites (k : Nat) (v : List Color) : List Instr := (v.zipIdx k).map (fun x => .wrpx (x.2 : Int) x.1)

/-- The RDPX commands that read the `n` entries from `k` on, in increasing order (R70). -/
def batchReads (k n : Nat) : List Instr := (List.range n).map (fun j => .rdpx ((k + j : Nat) : Int))

/-- The number of one-bits in the wire words of a buffer (R92). -/
def oneBits (pb : List Color) : Nat :=
  (pb.map (fun c => (List.range 32).countP (fun k => (wireWord c).getLsbD k))).sum

end Sys2Proof.Claims

open Sys2Proof Sys2Proof.Machine Sys2Proof.Claims

/-! ## Formats, decoder, encoder -/

/-- Decoding the word of any well-formed instruction gives it back, an alias as the SETC it is (R55 to R57, R63). -/
def Obligations.DecodeEncodeAgree : Prop :=
  ∀ i : Instr, i.wf = true → decode (encode i) = some i.core

/-- The example words of R65 to R69, R88, R105, R107, R115, R116, two reserved words and the three symbols of R52. -/
def Obligations.SampleWordsDecode : Prop :=
  decode (.command 0x10000000300000000#68) = some (.init 3) ∧
  decode (.command 0x20000000112345678#68) = some (.setc 1 ⟨0x12, 0x34, 0x56, 0x78⟩) ∧
  decode (.command 0x2FFFFFFFF04040404#68) = some (.setc (-1) ⟨4, 4, 4, 4⟩) ∧
  decode (.command 0x28000000005050505#68) = some (.setc (-2147483648) ⟨5, 5, 5, 5⟩) ∧
  decode (.command 0x30000000100000000#68) = some (.rdpx 1) ∧
  decode (.command 0x400000000FF000000#68) = some (.wrpx 0 ⟨0xFF, 0, 0, 0⟩) ∧
  decode (.command 0x50000000000000000#68) = some .count ∧
  decode (.command 0x60000000000000000#68) = some .enc ∧
  decode (.command 0x70000000000120002#68) = some (.cfg 18 0 2) ∧
  decode (.command 0x80000000000000000#68) = some .tx ∧
  decode (.command 0x90000000100000000#68) = some (.begin 1) ∧
  decode (.command 0xA0000000000000000#68) = some .update ∧
  decode (.command 0x00000000000000000#68) = some (.reserved0 0 0) ∧
  decode (.command 0xF123456789ABCDEF0#68) = some (.reservedF 0x12345678 0x9ABCDEF0) ∧
  decode (.item 0x002D800F#32) = some .t0 ∧
  decode (.item 0x001E801E#32) = some .t1 ∧
  decode (.item 0x000007D0#32) = some .trst

/-- R58: a field R57 marks unused changes nothing, and the encoder writes zeros there. -/
def Obligations.UnusedFieldsIgnored : Prop :=
  (∀ op : BitVec 4, op = 0x5 ∨ op = 0x6 ∨ op = 0x8 ∨ op = 0xA →
    ∀ a d a' d' : BitVec 32, decodeCommand (commandWord op a d) = decodeCommand (commandWord op a' d')) ∧
  (∀ op : BitVec 4, op = 0x1 ∨ op = 0x3 ∨ op = 0x9 →
    ∀ a d d' : BitVec 32, decodeCommand (commandWord op a d) = decodeCommand (commandWord op a d')) ∧
  (∀ a d a' d' : BitVec 32, d.extractLsb' 0 24 = d'.extractLsb' 0 24 →
    decodeCommand (commandWord 0x7 a d) = decodeCommand (commandWord 0x7 a' d')) ∧
  (∀ n, ∃ a, encode (.init n) = .command (commandWord 0x1 a 0) ∧ encode (.begin n) = .command (commandWord 0x9 a 0)) ∧
  (∀ i, ∃ a, encode (.rdpx i) = .command (commandWord 0x3 a 0)) ∧
  encode .count = .command (commandWord 0x5 0 0) ∧ encode .enc = .command (commandWord 0x6 0 0) ∧
  encode .tx = .command (commandWord 0x8 0 0) ∧ encode .update = .command (commandWord 0xA 0 0) ∧
  (∀ p c k, ∃ d, encode (.cfg p c k) = .command (commandWord 0x7 0 d) ∧ d.extractLsb' 24 8 = 0)

/-- The decoder is total and chooses by the opcode alone; it gives only well-formed instructions and never an alias. -/
def Obligations.DecodeByOpcodeAlone : Prop :=
  ∀ w : BitVec 68, (decodeCommand w).opcode = some (opField w) ∧
    (decodeCommand w).wf = true ∧ (decodeCommand w).core = decodeCommand w

/-- Exactly the three packed words of R52 name a symbol. -/
def Obligations.ItemWordsDecode : Prop :=
  ∀ w : BitVec 32,
    (decode (.item w) = some .t0 ↔ w = 0x002D800F) ∧
    (decode (.item w) = some .t1 ↔ w = 0x001E801E) ∧
    (decode (.item w) = some .trst ↔ w = 0x000007D0) ∧
    (decode (.item w) = none ↔ w ≠ 0x002D800F ∧ w ≠ 0x001E801E ∧ w ≠ 0x000007D0)

/-- R46: the packed Color and its inverse. -/
def Obligations.ColorPacking : Prop :=
  (∀ c : Color, c.pack.toNat = c.r.toNat * 2 ^ 24 + c.g.toNat * 2 ^ 16 + c.b.toNat * 2 ^ 8 + c.w.toNat ∧
    Color.unpack c.pack = c) ∧
  (∀ v : BitVec 32, (Color.unpack v).pack = v ∧
    (Color.unpack v).r.toNat = v.toNat / 2 ^ 24 % 2 ^ 8 ∧ (Color.unpack v).g.toNat = v.toNat / 2 ^ 16 % 2 ^ 8 ∧
    (Color.unpack v).b.toNat = v.toNat / 2 ^ 8 % 2 ^ 8 ∧ (Color.unpack v).w.toNat = v.toNat % 2 ^ 8)

/-- R49, R51: the packed item word and its inverse. -/
def Obligations.ItemPacking : Prop :=
  Level.L.bit = 0 ∧ Level.H.bit = 1 ∧
  ∀ it : Item, it.duration0 ≤ 32767 → it.duration1 ≤ 32767 →
    it.pack.toNat = it.level1.bit.toNat * 2 ^ 31 + it.duration1 * 2 ^ 16 + it.level0.bit.toNat * 2 ^ 15 + it.duration0 ∧
    Item.unpack it.pack = it

/-- R61: the 34-bit response. -/
def Obligations.ResponsePacking : Prop :=
  Status.ok.code = 0 ∧ Status.errConfig.code = 1 ∧ Status.errTransmit.code = 2 ∧
  ∀ r : Response, r.pack.extractLsb' 32 2 = r.status.code ∧ r.pack.extractLsb' 0 32 = r.data

/-! ## The encoder and the waveform -/

/-- R52, R81: the symbol table, the packed words, the total ticks, and that the symbols determine the bits. -/
def Obligations.SymbolTable : Prop :=
  sym false = ⟨.H, 15, .L, 45⟩ ∧ sym true = ⟨.H, 30, .L, 30⟩ ∧
  symT0 = sym false ∧ symT1 = sym true ∧ symTRST = ⟨.L, 2000, .L, 0⟩ ∧
  symT0.pack = 0x002D800F ∧ symT1.pack = 0x001E801E ∧ symTRST.pack = 0x000007D0 ∧
  (waveItem symT0).length = 60 ∧ (waveItem symT1).length = 60 ∧ (waveItem symTRST).length = 2000 ∧
  symT0 ≠ symT1 ∧ symT0 ≠ symTRST ∧ symT1 ≠ symTRST ∧
  (∀ (pb : List Color) (it : Item), it ∈ encodeFrame pb → it = symT0 ∨ it = symT1 ∨ it = symTRST) ∧
  (∀ a b : List Bool, a.map sym = b.map sym → a = b)

/-- R82, R83, R84: wire order, bit order, the 32 symbols of a pixel. -/
def Obligations.PixelEncoding : Prop :=
  (∀ c : Color, wireBytes c = [c.g, c.r, c.b, c.w]) ∧
  (∀ v : Byte, byteBits v = (List.range 8).map (fun k => v.getLsbD (7 - k))) ∧
  (∀ c : Color, encPixel c = (((wireBytes c).map byteBits).flatten).map sym ∧
    encPixel c = (byteBits c.g).map sym ++ (byteBits c.r).map sym ++ (byteBits c.b).map sym ++ (byteBits c.w).map sym ∧
    (encPixel c).length = 32)

/-- R47: the wire word, the position of each of its bits, and how it differs from the packed Color. -/
def Obligations.WireWordOrder : Prop :=
  ∀ c : Color,
    (wireWord c).toNat = c.g.toNat * 2 ^ 24 + c.r.toNat * 2 ^ 16 + c.b.toNat * 2 ^ 8 + c.w.toNat ∧
    (∀ k, k ≤ 31 → (encPixel c)[31 - k]? = some (sym ((wireWord c).getLsbD k))) ∧
    wireWord c = Color.pack { c with r := c.g, g := c.r }

/-- R85, R86: the frame of a buffer, its length and its shape. -/
def Obligations.FrameOfBuffer : Prop :=
  (∀ pb : List Color, encodeFrame pb = (pb.map encPixel).flatten ++ [⟨.L, 2000, .L, 0⟩]) ∧
  (∀ pb : List Color, (encodeFrame pb).length = 32 * pb.length + 1 ∧
    (encodeFrame pb)[32 * pb.length]? = some symTRST ∧
    (∀ j, j < 32 * pb.length → (encodeFrame pb)[j]? = some symT0 ∨ (encodeFrame pb)[j]? = some symT1) ∧
    (encodeFrame pb).count symTRST = 1) ∧
  encodeFrame [] = [symTRST] ∧
  (∀ n, encodeFrame (List.replicate n Color.zero) = List.replicate (32 * n) symT0 ++ [symTRST])

/-- R53: the symbol at each position of a frame, in both forms the rule gives. -/
def Obligations.FrameIndexed : Prop :=
  ∀ (pb : List Color),
    (∀ j, j < 32 * pb.length →
      ∃ c, pb[j / 32]? = some c ∧
        (∃ v : Byte, [c.g, c.r, c.b, c.w][(j % 32) / 8]? = some v ∧
          (encodeFrame pb)[j]? = some (if v.getLsbD (7 - (j % 32) % 8) then symT1 else symT0)) ∧
        (encodeFrame pb)[j]? = some (if (wireWord c).getLsbD (31 - j % 32) then symT1 else symT0)) ∧
    (encodeFrame pb)[32 * pb.length]? = some symTRST

/-- Equal frames come from equal buffers, and one pixel decides only its own 32 items (41_pulse_encoder.md section 2). -/
def Obligations.FrameInjectiveAndLocal : Prop :=
  (∀ pb pb' : List Color, encodeFrame pb = encodeFrame pb' → pb = pb') ∧
  (∀ (pb : List Color) (p : Nat) (c : Color) (j : Nat), j / 32 ≠ p →
    (encodeFrame (pb.set p c))[j]? = (encodeFrame pb)[j]?)

/-- Decoding a frame gives the buffer back (41_pulse_encoder.md section 5). -/
def Obligations.FrameDecodes : Prop :=
  ∀ pb : List Color, decodeFrame (encodeFrame pb) = pb

/-- R90: the waveform of an item and of the three symbols. -/
def Obligations.ItemWaveform : Prop :=
  (∀ l0 d0 l1 d1, waveItem ⟨l0, d0, l1, d1⟩ = List.replicate d0 l0 ++ List.replicate d1 l1) ∧
  waveItem symT0 = List.replicate 15 .H ++ List.replicate 45 .L ∧
  waveItem symT1 = List.replicate 30 .H ++ List.replicate 30 .L ∧
  waveItem symTRST = List.replicate 2000 .L

/-- The tick counts of a frame (41_pulse_encoder.md section 5). -/
def Obligations.FrameTicks : Prop :=
  ∀ pb : List Color,
    (wave (encodeFrame pb)).length = 1920 * pb.length + 2000 ∧
    (wave (encodeFrame pb)).count .H = 480 * pb.length + 15 * oneBits pb ∧
    (wave (encodeFrame pb)).count .L + 15 * oneBits pb = 1440 * pb.length + 2000

/-- Every data bit is a cell of 60 ticks, high for 15 or 30 of them; the frame ends in 2000 low ticks
(41_pulse_encoder.md section 5). -/
def Obligations.CellStructure : Prop :=
  ∀ pb : List Color,
    (∀ j t, j < 32 * pb.length → t < 60 →
      ∃ c, pb[j / 32]? = some c ∧
        (wave (encodeFrame pb))[60 * j + t]? =
          some (if t < 15 then .H
            else if t < 30 then (if (wireWord c).getLsbD (31 - j % 32) then .H else .L)
            else .L)) ∧
    (∀ t, t < 2000 → (wave (encodeFrame pb))[1920 * pb.length + t]? = some .L)

/-! ## The commands -/

/-- R65. -/
def Obligations.InitCreatesBuffer : Prop :=
  (∀ a d, decodeCommand (commandWord 0x1 a d) = .init a.toNat) ∧
  ∀ (s : State) (n : Nat), s.accepting →
    (s.init = true → exec (.init n) s = .next (faulted s .reinit)) ∧
    (s.init = false → Config.nmax < n → exec (.init n) s = .next (faulted s .countRange)) ∧
    (s.init = false → n ≤ Config.nmax →
      ∃ t, exec (.init n) s = .next t ∧ pixels t = List.replicate n Color.zero ∧
        t = { delivered s (.init n) .ok 0 with init := true, N := n, PB := t.PB })

/-- R31: the index is read as a signed 32-bit number and is in range exactly when `0 <= i` and `i < N`. -/
def Obligations.RangeTest : Prop :=
  (∀ (a : BitVec 32), sext32 a = if a.toNat < 2 ^ 31 then (a.toNat : Int) else (a.toNat : Int) - 2 ^ 32) ∧
  (∀ a d, decodeCommand (commandWord 0x2 a d) = .setc (sext32 a) (Color.unpack d) ∧
    decodeCommand (commandWord 0x3 a d) = .rdpx (sext32 a) ∧
    decodeCommand (commandWord 0x4 a d) = .wrpx (sext32 a) (Color.unpack d)) ∧
  (∀ (n : Nat) (i : Int), inRange n i = true ↔ 0 ≤ i ∧ i < (n : Int)) ∧
  (∀ (n : Nat) (i : Int), i < 0 → inRange n i = false) ∧ (∀ i : Int, inRange 0 i = false)

/-- R32, R66, R68: SETC and WRPX write one whole entry when the index is in range and are silent no-ops otherwise. -/
def Obligations.SetcAndWrpxWriteOnePixel : Prop :=
  (∀ a d, decodeCommand (commandWord 0x2 a d) = .setc (sext32 a) (Color.unpack d) ∧
    decodeCommand (commandWord 0x4 a d) = .wrpx (sext32 a) (Color.unpack d)) ∧
  ∀ (i : Int) (c : Color), WritesOnePixel (.setc i c) (.setc i c) i c ∧ WritesOnePixel (.wrpx i c) (.wrpx i c) i c

/-- R63: the aliases are SETC: the same word, the same effect, recorded as the SETC they are; BEGIN and UPDATE have
opcodes of their own. -/
def Obligations.AliasesAreSetc : Prop :=
  ∀ (i : Int) (v : BitVec 32) (c : Color),
    encode (.setcv i v) = encode (.setc i (Color.unpack v)) ∧
    encode (.setcv i v) = .command (commandWord 0x2 (BitVec.ofInt 32 i) v) ∧
    encode (.setled i c) = encode (.setc i c) ∧
    WritesOnePixel (.setcv i v) (.setc i (Color.unpack v)) i (Color.unpack v) ∧
    WritesOnePixel (.setled i c) (.setc i c) i c ∧
    (∀ n, (Instr.begin n).opcode = some 0x9 ∧ (Instr.begin n).core = .begin n) ∧
    Instr.update.opcode = some 0xA ∧ Instr.update.core = .update

/-- R33, R67. -/
def Obligations.RdpxReadsPixel : Prop :=
  (∀ a d, decodeCommand (commandWord 0x3 a d) = .rdpx (sext32 a)) ∧
  ∀ (s : State) (i : Int), s.accepting →
    (s.init = false → exec (.rdpx i) s = .next (faulted s .uninit)) ∧
    (s.init = true → ¬ (0 ≤ i ∧ i < (s.N : Int)) → exec (.rdpx i) s = .next (faulted s .boundsRead)) ∧
    (s.init = true → 0 ≤ i → i < (s.N : Int) →
      ∃ c, (pixels s)[pixelIndex i]? = some c ∧ exec (.rdpx i) s = .next (delivered s (.rdpx i) .ok c.pack))

/-- R69; with `N <= NMAX` (R11) the count fits the response. -/
def Obligations.CountReturnsLedCount : Prop :=
  (∀ a d, decodeCommand (commandWord 0x5 a d) = .count) ∧
  ∀ s : State, s.accepting →
    (s.init = false → exec .count s = .next (faulted s .uninit)) ∧
    (s.init = true →
      ∃ d, exec .count s = .next (delivered s .count .ok d) ∧ (s.N ≤ Config.nmax → d.toNat = s.N))

/-- R88; with `N <= NMAX` (R11) the frame length fits the response. -/
def Obligations.EncFillsItemStore : Prop :=
  (∀ a d, decodeCommand (commandWord 0x6 a d) = .enc) ∧
  ∀ s : State, s.accepting →
    (s.init = false → exec .enc s = .next (faulted s .uninit)) ∧
    (s.init = true →
      ∃ d, exec .enc s = .next { delivered s .enc .ok d with IS := encodeFrame (pixels s), isValid := true } ∧
        (s.N ≤ Config.nmax → d.toNat = 32 * s.N + 1))

/-- R105. -/
def Obligations.CfgConfiguresTransport : Prop :=
  (∀ a d, decodeCommand (commandWord 0x7 a d) =
    .cfg (d.extractLsb' 16 8) (d.extractLsb' 8 8) (d.extractLsb' 0 8)) ∧
  ∀ (s : State) (pin channel clockDivisor : Byte), s.accepting →
    ∃ t, exec (.cfg pin channel clockDivisor) s = .next t ∧
      t = { s with CFGR := ⟨pin, channel, clockDivisor⟩, ready := bothOk s, env := t.env } ∧
      t.env.events = s.env.events ++ configureEvents s (.cfg pin channel clockDivisor) pin channel clockDivisor ∧
      clientKept s t

/-- R95, R107. -/
def Obligations.TxTransmitsFrame : Prop :=
  (∀ a d, decodeCommand (commandWord 0x8 a d) = .tx) ∧
  (∀ s : State, s.accepting →
    (s.init = false → exec .tx s = .next (faulted s .uninit)) ∧
    (s.init = true → s.isValid = false → exec .tx s = .next (faulted s .noFrame)) ∧
    (s.init = true → s.isValid = true → s.ready = false →
      exec .tx s = .next { delivered s .tx .errTransmit 0 with isValid := false }) ∧
    (s.init = true → s.isValid = true → s.ready = true →
      ∃ t, exec .tx s = .next t ∧ HandsOver s s t .tx s.IS)) ∧
  CompletesFor .tx .tx

/-- R115. -/
def Obligations.BeginCreatesAndConfigures : Prop :=
  (∀ a d, decodeCommand (commandWord 0x9 a d) = .begin a.toNat) ∧
  ∀ (s : State) (n : Nat), s.accepting →
    (s.init = true → exec (.begin n) s = .next (faulted s .reinit)) ∧
    (s.init = false → Config.nmax < n → exec (.begin n) s = .next (faulted s .countRange)) ∧
    (s.init = false → n ≤ Config.nmax →
      ∃ t, exec (.begin n) s = .next t ∧ pixels t = List.replicate n Color.zero ∧
        t = { s with init := true, N := n, PB := t.PB, CFGR := ⟨Config.pin, Config.channel, 2⟩, ready := bothOk s,
                     env := t.env } ∧
        t.env.events = s.env.events ++ configureEvents s (.begin n) Config.pin Config.channel 2 ∧
        clientKept s t)

/-- R116. -/
def Obligations.UpdateEncodesAndTransmits : Prop :=
  (∀ a d, decodeCommand (commandWord 0xA a d) = .update) ∧
  (∀ s : State, s.accepting →
    (s.init = false → exec .update s = .next (faulted s .uninit)) ∧
    (s.init = true → s.ready = false →
      exec .update s =
        .next { delivered s .update .errTransmit 0 with IS := encodeFrame (pixels s), isValid := false }) ∧
    (s.init = true → s.ready = true →
      ∃ t, exec .update s = .next t ∧
        HandsOver s { s with IS := encodeFrame (pixels s), isValid := true } t .update (encodeFrame (pixels s)))) ∧
  CompletesFor .update .update

/-- R59: an accepted word with a reserved opcode faults with `F_ILLEGAL_OP`, whatever the rest of the state and whatever
`a` and `d` hold. -/
def Obligations.ReservedOpcodesFault : Prop :=
  (∀ op : BitVec 4, op = 0x0 ∨ op = 0xB ∨ op = 0xC ∨ op = 0xD ∨ op = 0xE ∨ op = 0xF →
    ∀ (a d : BitVec 32) (s : State), s.accepting →
      exec (decodeCommand (commandWord op a d)) s = .next (faulted s .illegalOp)) ∧
  (∀ (a d : BitVec 32) (s : State), s.accepting →
    exec (.reserved0 a d) s = .next (faulted s .illegalOp) ∧ exec (.reservedB a d) s = .next (faulted s .illegalOp) ∧
    exec (.reservedC a d) s = .next (faulted s .illegalOp) ∧ exec (.reservedD a d) s = .next (faulted s .illegalOp) ∧
    exec (.reservedE a d) s = .next (faulted s .illegalOp) ∧ exec (.reservedF a d) s = .next (faulted s .illegalOp))

/-- R96: while `busy` and `pos < len(IS)` the step in which the peripheral goes on emits `IS[pos]`, advances `pos` by one
and changes nothing else; with no item left no step emits one. -/
def Obligations.GeneratorEmitsItem : Prop :=
  (∀ (s : State) (it : Item), s.fault = none → s.busy = true → s.env.next.move = .go → s.IS[s.pos]? = some it →
    ∃ t, step s = .next t ∧ EmitsItem it s t) ∧
  (∀ s t : State, s.busy = true → s.IS.length ≤ s.pos → step s = .next t → t.env.emitted = s.env.emitted)

/-- The three symbols are the generator's steps: performed while a transmission has items left, T0, T1 and TRST emit their
item, and the line history waits for the completion; elsewhere they are refused by name (41_pulse_encoder.md section 6).
That the symbols are performed as instructions is the model's choice (log 4), as are the refusal (log 11), what happens
where `IS[pos]` is another item (log 24) and the time at which the line history grows (log 15). -/
def Obligations.SymbolsAreGeneratorSteps : Prop :=
  (∀ s : State, s.fault = none → s.busy = true → s.pos < s.IS.length →
    (∃ t, exec .t0 s = .next t ∧ EmitsItem ⟨.H, 15, .L, 45⟩ s t ∧ t.env.line = s.env.line) ∧
    (∃ t, exec .t1 s = .next t ∧ EmitsItem ⟨.H, 30, .L, 30⟩ s t ∧ t.env.line = s.env.line) ∧
    (∃ t, exec .trst s = .next t ∧ EmitsItem ⟨.L, 2000, .L, 0⟩ s t ∧ t.env.line = s.env.line)) ∧
  (∀ s : State, s.fault = none → s.busy = false ∨ s.IS.length ≤ s.pos →
    exec .t0 s = .refused .noItemStep ∧ exec .t1 s = .refused .noItemStep ∧ exec .trst s = .refused .noItemStep)

/-! ## Faults, order of checks, hold -/

/-- R130: a faulting instruction records its reason and changes nothing else, and a faulted block performs nothing. -/
def Obligations.FaultsAreStickyAndClean : Prop :=
  (∀ (i : Instr) (s t : State) (r : FaultReason), exec i s = .next t → t.fault = some r → t = faulted s r) ∧
  (∀ (i : Instr) (s t : State) (r : FaultReason), s.fault = some r → exec i s ≠ .next t) ∧
  (∀ (s t : State) (r : FaultReason), s.fault = some r → step s ≠ .next t ∧ ¬ s.final)

/-- A block with a recorded fault stops by name, in every instruction and in every step. The spec says that it has no step
(60_exceptions.md section 3); the name is the model's (log 9). -/
def Obligations.FaultedBlockStopsByName : Prop :=
  (∀ (i : Instr) (s : State) (r : FaultReason), s.fault = some r → exec i s = .fault (.blockFaulted r)) ∧
  (∀ (s : State) (r : FaultReason), s.fault = some r → step s = .fault (.blockFaulted r))

/-- R131, R134: every accepted command ends as the first check that applies says; a command without one is answered, or
its frame is handed over and its status waits for the completion. -/
def Obligations.ChecksDecideOutcome : Prop :=
  (∀ (i : Instr) (s t : State), s.fault ≠ none → exec i s ≠ .next t) ∧
  (∀ (i : Instr) (s : State), i.opcode ≠ none → s.fault = none → s.busy = true → exec i s = .next s) ∧
  (∀ (i : Instr) (s : State), i.opcode ≠ none → s.accepting →
    ∃ t, exec i s = .next t ∧
      (∀ r, firstFault i s = some r → t = faulted s r) ∧
      (firstFault i s = none → t.fault = none ∧
        (∀ st, statusAtOnce i s = some st →
          ∃ d, t.env.events.getLast? = some (.response i.core ⟨st, d⟩) ∧ t.busy = false) ∧
        (statusAtOnce i s = none → t.busy = true ∧
          ∃ items, t.env.events = s.env.events ++ [.transmit s.CFGR.channel items true]))) ∧
  (∀ (i : Instr) (s t : State), s.accepting → exec i s = .next t →
    (statusAtOnce i s ≠ none → ∀ ch items b, .transmit ch items b ∉ newEvents s t) ∧
    (s.env.next.configure = .error → ∀ ch a, .install ch a ∉ newEvents s t) ∧
    (s.init = true → i = .update → t.IS = encodeFrame (pixels s))) ∧
  CompletesFor .tx .tx ∧ CompletesFor .update .update

/-- R133: while busy a presented command is held and its word stays at the port; after the completion it is performed as
if presented then. A presented word stands at the head of `env.program` (log 1). -/
def Obligations.BusyHoldsCommands : Prop :=
  (∀ (i : Instr) (s : State), i.opcode ≠ none → s.fault = none → s.busy = true → exec i s = .next s) ∧
  (∀ s t : State, s.busy = true → step s = .next t → t.env.program = s.env.program ∧
    (t.busy = false → ∀ w rest, s.env.program = w :: rest →
      step t = exec (decodeCommand w) { t with env := { t.env with program := rest } }))

/-- While busy the buffer, the count, the configuration, the frame and the flags other than `busy` and `is_valid` stand
still (41_pulse_encoder.md section 6, 70_reset_and_hazards.md section 3). -/
def Obligations.BusyFreezesBuffer : Prop :=
  ∀ s t : State, s.busy = true → step s = .next t →
    t.init = s.init ∧ t.N = s.N ∧ t.PB = s.PB ∧ t.CFGR = s.CFGR ∧ t.ready = s.ready ∧ t.IS = s.IS ∧ t.fault = s.fault ∧
    (t.busy = true → t.isValid = s.isValid)

/-- Only CFG and BEGIN answer ERR_CONFIG and only TX and UPDATE answer ERR_TRANSMIT, with the states the error classes
name (60_exceptions.md section 2). -/
def Obligations.ErrorClasses : Prop :=
  ∀ (i j : Instr) (s t : State) (d : BitVec 32), exec i s = .next t →
    (.response j ⟨.errConfig, d⟩ ∈ newEvents s t →
      ((∃ p c k, i = .cfg p c k) ∨ ∃ n, i = .begin n) ∧ j = i ∧ d = 0 ∧ t.ready = false) ∧
    (.response j ⟨.errTransmit, d⟩ ∈ newEvents s t →
      (i = .tx ∨ i = .update) ∧ j = i ∧ d = 0 ∧ t.isValid = false ∧ t.busy = false ∧
      ∀ e ∈ newEvents s t, isCall e = false)

/-! ## Frames of the families -/

/-- The pixel-buffer commands touch neither the transport nor the frame nor the line (40_pixel_buffer.md, its frame
property). -/
def Obligations.PixelCommandsFrame : Prop :=
  ∀ (i : Instr) (s t : State), exec i s = .next t →
    ((∃ n, i = .init n) ∨ (∃ k c, i = .setc k c ∨ i = .wrpx k c ∨ i = .setled k c) ∨ (∃ k v, i = .setcv k v) ∨
      (∃ k, i = .rdpx k) ∨ i = .count) →
    t.CFGR = s.CFGR ∧ t.ready = s.ready ∧ t.IS = s.IS ∧ t.isValid = s.isValid ∧ t.busy = s.busy ∧ t.pos = s.pos ∧
    t.env.line = s.env.line ∧ t.env.lineHeld = s.env.lineHeld ∧ (∀ e ∈ newEvents s t, isCall e = false) ∧
    (¬ (∃ n, i = .init n) → t.N = s.N ∧ t.init = s.init) ∧
    ((∃ k, i = .rdpx k) ∨ i = .count → t.PB = s.PB)

/-- CFG changes only `CFGR` and `ready`, TX only `busy`, `pos` and `is_valid` (or its fault), and the peripheral's
calls come from nowhere else (42_transport.md, its frame property). Once a CFG has succeeded (log 14) no instruction but TX
and UPDATE changes the line history; that an item handed over, by T0, T1 or TRST (log 4), leaves it alone until the
completion is the model's choice (log 15). -/
def Obligations.TransportCommandsFrame : Prop :=
  (∀ (p c k : Byte) (s t : State), exec (.cfg p c k) s = .next t →
    t = { s with CFGR := t.CFGR, ready := t.ready, env := t.env }) ∧
  (∀ s t : State, exec .tx s = .next t →
    t = { s with busy := t.busy, pos := t.pos, isValid := t.isValid, fault := t.fault, env := t.env }) ∧
  (∀ (i : Instr) (s t : State), exec i s = .next t → s.env.lineHeld = true → i ≠ .tx → i ≠ .update →
    t.env.line = s.env.line) ∧
  (∀ (i : Instr) (s t : State) (e : Event), exec i s = .next t → e ∈ newEvents s t → isCall e = true →
    (∃ ch items b, e = .transmit ch items b ∧ (i = .tx ∨ i = .update)) ∨
    ((∀ ch items b, e ≠ .transmit ch items b) ∧ ((∃ p c k, i = .cfg p c k) ∨ ∃ n, i = .begin n)))

/-- A frame is a value: no instruction but ENC and UPDATE changes the item store, so ENC, a write, TX sends the colours
as they were at ENC (20_memory.md section 5). -/
def Obligations.FrameIsSnapshot : Prop :=
  (∀ (i : Instr) (s t : State), exec i s = .next t → i ≠ .enc → i ≠ .update → t.IS = s.IS) ∧
  (∀ (s : State) (i : Int) (c : Color), s.accepting → s.init = true → s.ready = true →
    ∃ u v t, exec .enc s = .next u ∧ exec (.setc i c) u = .next v ∧ exec .tx v = .next t ∧
      t.env.events.getLast? = some (.transmit s.CFGR.channel (encodeFrame (pixels s)) true))

/-- A read returns the Color of the latest in-range write to the entry, and other entries are as they were
(20_memory.md section 5). -/
def Obligations.ReadAfterWrite : Prop :=
  ∀ (s : State) (i j : Int) (c : Color), s.accepting → s.init = true → Memory.wf s.PB →
    0 ≤ i → i < (s.N : Int) → 0 ≤ j → j < (s.N : Int) →
    ∃ u t, exec (.setc i c) s = .next u ∧ exec (.wrpx i c) s = .next (
        { u with env := { u.env with events := s.env.events ++ [.response (.wrpx i c) ⟨.ok, 0⟩] } }) ∧
      exec (.rdpx j) u = .next t ∧
      t.env.events = u.env.events ++
        [.response (.rdpx j) ⟨.ok, (if j = i then c else readPixel s.PB (pixelIndex j)).pack⟩]

/-- R70: `n` WRPX commands, in any order, leave the buffer `MemWrite` leaves, and `n` RDPX commands, in increasing order,
answer the Colors `MemRead` names; in any order each answers its own entry and the buffer stands. -/
def Obligations.BatchAccess : Prop :=
  ∀ (s : State) (i : Int), s.accepting → s.init = true →
    (∀ (v : List Color) (m : State), Memory.wf s.PB → memWrite i v s = some m →
      ∀ cmds, cmds.Perm (batchWrites (pixelIndex i) v) →
        ∃ t, performAll cmds s = .next t ∧ pixels t = pixels m ∧ t = { s with PB := t.PB, env := t.env }) ∧
    (∀ (n : Nat) (cs : List Color), memRead i n s = some cs →
      (∃ t, performAll (batchReads (pixelIndex i) n) s = .next t ∧ t = { s with env := t.env } ∧
        (newEvents s t).length = n ∧
        ∀ (k : Nat) (c : Color), cs[k]? = some c →
          (newEvents s t)[k]? = some (Event.response (.rdpx (i + (k : Int))) ⟨.ok, c.pack⟩)) ∧
      (∀ cmds, cmds.Perm (batchReads (pixelIndex i) n) →
        ∃ t, performAll cmds s = .next t ∧ t = { s with env := t.env } ∧
          ∀ k : Nat, k < n → ∃ c, (pixels s)[pixelIndex i + k]? = some c ∧
            Event.response (.rdpx (i + (k : Int))) ⟨.ok, c.pack⟩ ∈ newEvents s t))

/-- UPDATE leaves what ENC and then TX leave, with the same peripheral calls (43_facade.md, the equality of UPDATE). -/
def Obligations.UpdateIsEncThenTx : Prop :=
  ∀ s : State, s.accepting →
    (s.init = false → exec .update s = exec .enc s) ∧
    (s.init = true →
      ∃ u t v, exec .enc s = .next u ∧ exec .tx u = .next t ∧ exec .update s = .next v ∧
        v = { t with env := v.env } ∧
        v.env.events.filter isCall = t.env.events.filter isCall ∧
        (∀ st d, .response .tx ⟨st, d⟩ ∈ newEvents u t ↔ .response .update ⟨st, d⟩ ∈ newEvents s v) ∧
        v.env.line = t.env.line ∧ v.env.lineHeld = t.env.lineHeld ∧ v.env.emitted = t.env.emitted ∧
        v.env.next = t.env.next ∧ v.env.program = t.env.program)

/-- BEGIN leaves what INIT and then CFG leave, with the same peripheral calls; where INIT faults so does BEGIN
(43_facade.md, the equality of BEGIN). -/
def Obligations.BeginIsInitThenCfg : Prop :=
  ∀ (s : State) (n : Nat), s.accepting →
    (s.init = true ∨ Config.nmax < n → exec (.begin n) s = exec (.init n) s) ∧
    (s.init = false → n ≤ Config.nmax →
      ∃ u t v, exec (.init n) s = .next u ∧ exec (.cfg Config.pin Config.channel 2) u = .next t ∧
        exec (.begin n) s = .next v ∧ v = { t with env := v.env } ∧
        v.env.events.filter isCall = t.env.events.filter isCall ∧
        v.env.line = t.env.line ∧ v.env.lineHeld = t.env.lineHeld ∧ v.env.next = t.env.next ∧
        v.env.program = t.env.program)

/-- In the block's own state CFG is idempotent: performed again with the same operands, and given the same two answers
whatever else the peripheral draws, it leaves the same `CFGR` and `ready`, and all else of the block (42_transport.md
section 2). -/
def Obligations.CfgIsIdempotent : Prop :=
  ∀ (s u : State) (p c k : Byte) (d : Config.Draw), s.accepting → exec (.cfg p c k) s = .next u →
    d.configure = s.env.next.configure → d.install = s.env.next.install →
    ∃ t, exec (.cfg p c k) { u with env := { u.env with next := d } } = .next t ∧ t = { u with env := t.env }

/-! ## Flags and the whole machine -/

/-- `init` is false at reset, set by exactly the INIT or BEGIN that does not fault, and never cleared (10_state.md
sections 2 and 4). -/
def Obligations.InitFlagRule : Prop :=
  State.reset.init = false ∧
  (∀ (i : Instr) (s t : State), exec i s = .next t → s.init = true → t.init = true) ∧
  (∀ (i : Instr) (s t : State), exec i s = .next t → s.init = false → s.busy = false →
    (t.init = true ↔ t.fault = none ∧ ∃ n, i = .init n ∨ i = .begin n)) ∧
  (∀ s t : State, step s = .next t → s.init = true → t.init = true)

/-- `ready` is false at reset, written by CFG alone (BEGIN through its CFG part), true exactly when both answers were ok
(10_state.md sections 3 and 4). -/
def Obligations.ReadyFlagRule : Prop :=
  State.reset.ready = false ∧
  (∀ (p c k : Byte) (s t : State), s.busy = false → exec (.cfg p c k) s = .next t → t.ready = bothOk s) ∧
  (∀ (n : Nat) (s t : State), s.busy = false → exec (.begin n) s = .next t → t.fault = none → t.ready = bothOk s) ∧
  (∀ (i : Instr) (s t : State), exec i s = .next t → (∀ p c k, i ≠ .cfg p c k) → (∀ n, i ≠ .begin n) →
    t.ready = s.ready)

/-- The LED count never changes once it has a value (10_state.md section 2). -/
def Obligations.LedCountImmutable : Prop :=
  ∀ s t : State, step s = .next t → s.init = true → t.init = true ∧ t.N = s.N ∧ (pixels t).length = (pixels s).length

/-- When the word at the command port, or the item at `pos`, decodes to an instruction, the step performs exactly it; the
word leaves the client's program. With no word the block waits (30_encoding.md section 6, 41_pulse_encoder.md section 6). -/
def Obligations.StepRunsDecoded : Prop :=
  (∀ (s : State) (w : BitVec 68) (rest : List (BitVec 68)), s.accepting → s.env.program = w :: rest →
    step s = exec (decodeCommand w) { s with env := { s.env with program := rest } }) ∧
  (∀ (s : State) (w : BitVec 32) (i : Instr), s.fault = none → s.busy = true → s.env.next.move = .go →
    s.IS[s.pos]? = some (Item.unpack w) → decode (.item w) = some i → step s = exec i s) ∧
  (∀ s : State, s.accepting → s.env.program = [] → step s = .next s)

/-- From a block as reset leaves it, INIT within NMAX, BEGIN within NMAX and CFG do not fault, and every other first word
does (70_reset_and_hazards.md section 1). -/
def Obligations.FirstCommandRule : Prop :=
  ∀ (s : State) (w : BitVec 68), s.accepting → s.init = false →
    ∃ t, exec (decodeCommand w) s = .next t ∧
      ((opField w = 0x7 ∨ ((opField w = 0x1 ∨ opField w = 0x9) ∧ (aField w).toNat ≤ Config.nmax)) → t.fault = none) ∧
      ((opField w = 0x1 ∨ opField w = 0x9) → Config.nmax < (aField w).toNat → t.fault = some .countRange) ∧
      ((opField w = 0x0 ∨ 0xB ≤ (opField w).toNat) → t.fault = some .illegalOp) ∧
      ((opField w = 0x2 ∨ opField w = 0x3 ∨ opField w = 0x4 ∨ opField w = 0x5 ∨ opField w = 0x6 ∨ opField w = 0x8 ∨
        opField w = 0xA) → t.fault = some .uninit)

/-- The values the spec gives for reset (10_state.md section 11). -/
def Obligations.ResetValues : Prop :=
  State.reset.init = false ∧ State.reset.ready = false ∧ State.reset.isValid = false ∧ State.reset.busy = false ∧
  State.reset.fault = none ∧ State.reset.CFGR.idleLevel = .L ∧ State.reset.CFGR.loopEnabled = false ∧
  State.reset.CFGR.carrierEnabled = false ∧ State.reset.CFGR.idleOutputEnabled = true ∧
  (∀ k, idleLine State.reset k = Config.lineBeforeConfigure k)

/-- The invariant holds at reset. -/
def Obligations.InvariantAtReset : Prop := Inv State.reset

/-- Every step from every state with the invariant keeps it (10_state.md section 12; the canonical buffer is the model's,
log 7, what has been emitted is the model's, log 4, and where the line history gets ticks is the model's, log 15). -/
def Obligations.StepKeepsInvariant : Prop :=
  ∀ s t : State, Inv s → step s = .next t → Inv t

/-- A transmission that ends with ok has put exactly the wave of its frame on the line, starting from a low tick, and leaves
the line idle low (41_pulse_encoder.md sections 5 and 6, 42_transport.md section 1). That the completion step itself appends
the whole wave is the model's choice (log 15). -/
def Obligations.SuccessPutsWaveOnLine : Prop :=
  ∀ s : State, Inv s → s.busy = true → s.env.next.move = .go → s.pos = s.IS.length →
    s.env.line.getLast? = some .L ∧
    ∃ t, step s = .next t ∧ t.env.line = s.env.line ++ wave s.IS ∧ t.env.line.getLast? = some .L ∧ t.busy = false ∧
      ∀ k, idleLine t k = .L

/-- Only the peripheral ends a transmission, and the events come in the order completion, response; before that no
response is delivered (42_transport.md section 2). That an ok comes only with every item taken is read from the rules on the
stepwise transmission (41_pulse_encoder.md section 6; log 3, DEDUCED). -/
def Obligations.OnlyCompletionEndsTransmission : Prop :=
  ∀ s t : State, s.busy = true → step s = .next t →
    (t.busy = true → t.env.events = s.env.events) ∧
    (t.busy = false → s.env.next.move ≠ .wait ∧
      ∃ a, (a = .error ↔ s.env.next.move = .fail) ∧ (a = .ok → s.IS.length ≤ s.pos) ∧
        t.env.events = s.env.events ++
          [.complete a, .response s.env.caller.instr ⟨if a = .ok then .ok else .errTransmit, 0⟩])

/-- The line is idle low after the first CFG (or BEGIN) that succeeds and stays so, a CFG that fails changes nothing of it,
and no step takes back a tick of the line history or an event (10_state.md section 10; that the idle line stays at any
level after a configure step whose install step fails is log 14). -/
def Obligations.LineHeldAndHistoryGrows : Prop :=
  (∀ (p c k : Byte) (s : State), s.accepting →
    ∃ t, exec (.cfg p c k) s = .next t ∧
      (bothOk s = true → ∀ n, idleLine t n = .L) ∧
      (bothOk s = false → t.env.line = s.env.line ∧ ∀ n, idleLine t n = idleLine s n)) ∧
  (∀ (m : Nat) (s : State), s.accepting → s.init = false → m ≤ Config.nmax →
    ∃ t, exec (.begin m) s = .next t ∧
      (bothOk s = true → ∀ n, idleLine t n = .L) ∧
      (bothOk s = false → t.env.line = s.env.line ∧ ∀ n, idleLine t n = idleLine s n)) ∧
  (∀ s t : State, step s = .next t → (s.env.lineHeld = true → t.env.lineHeld = true) ∧
    s.env.line <+: t.env.line ∧ s.env.events <+: t.env.events)

/-- No instruction reads the client's program, the event history or the line history: with others in their place it does
the same to the block's own state, to the peripheral's choices and to the transmission in flight, and adds the same
entries and ticks (10_state.md sections 10 and 12). That they stand in the machine's state beside the block's is the model's
choice (log 1, 19). -/
def Obligations.HistoriesAreNeverRead : Prop :=
  ∀ (i : Instr) (s r : State), r.toBlock = s.toBlock →
    r.env = { s.env with program := r.env.program, events := r.env.events, line := r.env.line } →
    (∀ f, exec i s = .fault f → exec i r = .fault f) ∧ (∀ f, exec i s = .refused f → exec i r = .refused f) ∧
    (∀ t, exec i s = .next t → ∃ u, exec i r = .next u ∧ u.toBlock = t.toBlock ∧
      (∃ es ls, t.env.events = s.env.events ++ es ∧ t.env.line = s.env.line ++ ls ∧ t.env.program = s.env.program ∧
        u.env = { t.env with program := r.env.program, events := r.env.events ++ es, line := r.env.line ++ ls }))

/-- The stepwise reading of a transmission is the one-shot one: whatever the peripheral does between the steps, a
transmission that ends with ok has carried the wave of the whole frame that was handed over, and the buffer stood still
(41_pulse_encoder.md section 6). That no tick is added before the completion, which appends them all, is the model's choice
(log 15). -/
def Obligations.StepwiseIsOneShot : Prop :=
  ∀ (k : Nat) (s u t : State), Inv s → s.busy = true → Sys2Proof.core.run k s = .next u → u.busy = true →
    u.env.events = s.env.events → step u = .next t →
    t.env.events = s.env.events ++ [.complete .ok, .response s.env.caller.instr ⟨.ok, 0⟩] →
    t.env.line = s.env.line ++ wave s.IS ∧ t.busy = false ∧ t.isValid = false ∧
      t.PB = s.PB ∧ t.N = s.N ∧ t.CFGR = s.CFGR ∧ t.ready = s.ready ∧ t.IS = s.IS
end

