-- ==== Sys2Proof/Laws/Encoder.lean ====
section
/-! SUPPORT. The small lemmas of the encoder's functions. -/

namespace Sys2Proof.Machine

@[simp] theorem bitOf_sym (b : Bool) : bitOf (sym b) = b := by cases b <;> decide

theorem sym_injective {a b : Bool} (h : sym a = sym b) : a = b := by
  rw [← bitOf_sym a, h, bitOf_sym]

theorem sym_mem (b : Bool) : sym b = symT0 ∨ sym b = symT1 := by cases b <;> simp [sym]

@[simp] theorem length_byteBits (v : Byte) : (byteBits v).length = 8 := rfl

@[simp] theorem length_wireBytes (c : Color) : (wireBytes c).length = 4 := rfl

@[simp] theorem encodeFrame_nil : encodeFrame [] = [symTRST] := rfl

theorem encodeFrame_cons (c : Color) (pb : List Color) :
    encodeFrame (c :: pb) = encPixel c ++ encodeFrame pb := by simp [encodeFrame]

@[simp] theorem length_waveItem (it : Item) : (waveItem it).length = it.duration0 + it.duration1 := by
  simp [waveItem]

@[simp] theorem wave_nil : wave [] = [] := rfl

@[simp] theorem wave_append (a b : List Item) : wave (a ++ b) = wave a ++ wave b := by simp [wave]

/-- Ticks put after a low tick and returned to low leave a low tick last. -/
theorem getLast?_append_returnLow {line : List Level} (h : line.getLast? = some .L) (ticks : List Level) :
    (line ++ returnLow ticks).getLast? = some .L := by
  unfold returnLow
  split
  · simp
  · next hn =>
    rw [List.getLast?_append, h]
    cases ht : ticks.getLast? with
    | none => rfl
    | some l => cases l <;> simp_all

/-- The wave of items that end with the reset item ends low. -/
theorem getLast?_wave_concat_symTRST (items : List Item) : (wave (items ++ [symTRST])).getLast? = some .L := by
  have h : wave [symTRST] = List.replicate 2000 .L ++ [] ++ [] := rfl
  rw [wave_append, h, List.append_nil, List.append_nil, List.getLast?_append, List.getLast?_replicate,
    if_neg (by decide)]
  rfl

end Sys2Proof.Machine
end

