-- ==== Sys2Proof/Laws/State.lean ====
section
/-! SUPPORT. What each named update of the state does to each field, one lemma for each, so that no later proof unfolds a
record update. -/

namespace Sys2Proof.Machine

variable (s : State)

@[simp] theorem record_init (e : Event) : (record e s).init = s.init := rfl
@[simp] theorem record_N (e : Event) : (record e s).N = s.N := rfl
@[simp] theorem record_PB (e : Event) : (record e s).PB = s.PB := rfl
@[simp] theorem record_CFGR (e : Event) : (record e s).CFGR = s.CFGR := rfl
@[simp] theorem record_ready (e : Event) : (record e s).ready = s.ready := rfl
@[simp] theorem record_IS (e : Event) : (record e s).IS = s.IS := rfl
@[simp] theorem record_isValid (e : Event) : (record e s).isValid = s.isValid := rfl
@[simp] theorem record_busy (e : Event) : (record e s).busy = s.busy := rfl
@[simp] theorem record_pos (e : Event) : (record e s).pos = s.pos := rfl
@[simp] theorem record_fault (e : Event) : (record e s).fault = s.fault := rfl
@[simp] theorem record_env_program (e : Event) : (record e s).env.program = s.env.program := rfl
@[simp] theorem record_env_next (e : Event) : (record e s).env.next = s.env.next := rfl
@[simp] theorem record_env_drawn (e : Event) : (record e s).env.drawn = s.env.drawn := rfl
@[simp] theorem record_env_caller (e : Event) : (record e s).env.caller = s.env.caller := rfl
@[simp] theorem record_env_emitted (e : Event) : (record e s).env.emitted = s.env.emitted := rfl
@[simp] theorem record_env_events (e : Event) : (record e s).env.events = s.env.events ++ [e] := rfl
@[simp] theorem record_env_line (e : Event) : (record e s).env.line = s.env.line := rfl
@[simp] theorem record_env_lineHeld (e : Event) : (record e s).env.lineHeld = s.env.lineHeld := rfl

@[simp] theorem respond_init (i : Instr) (st : Status) (d : BitVec 32) : (respond i st d s).init = s.init := rfl
@[simp] theorem respond_N (i : Instr) (st : Status) (d : BitVec 32) : (respond i st d s).N = s.N := rfl
@[simp] theorem respond_PB (i : Instr) (st : Status) (d : BitVec 32) : (respond i st d s).PB = s.PB := rfl
@[simp] theorem respond_CFGR (i : Instr) (st : Status) (d : BitVec 32) : (respond i st d s).CFGR = s.CFGR := rfl
@[simp] theorem respond_ready (i : Instr) (st : Status) (d : BitVec 32) : (respond i st d s).ready = s.ready := rfl
@[simp] theorem respond_IS (i : Instr) (st : Status) (d : BitVec 32) : (respond i st d s).IS = s.IS := rfl
@[simp] theorem respond_isValid (i : Instr) (st : Status) (d : BitVec 32) : (respond i st d s).isValid = s.isValid := rfl
@[simp] theorem respond_busy (i : Instr) (st : Status) (d : BitVec 32) : (respond i st d s).busy = s.busy := rfl
@[simp] theorem respond_pos (i : Instr) (st : Status) (d : BitVec 32) : (respond i st d s).pos = s.pos := rfl
@[simp] theorem respond_fault (i : Instr) (st : Status) (d : BitVec 32) : (respond i st d s).fault = s.fault := rfl
@[simp] theorem respond_env_program (i : Instr) (st : Status) (d : BitVec 32) : (respond i st d s).env.program = s.env.program := rfl
@[simp] theorem respond_env_next (i : Instr) (st : Status) (d : BitVec 32) : (respond i st d s).env.next = s.env.next := rfl
@[simp] theorem respond_env_drawn (i : Instr) (st : Status) (d : BitVec 32) : (respond i st d s).env.drawn = s.env.drawn := rfl
@[simp] theorem respond_env_caller (i : Instr) (st : Status) (d : BitVec 32) : (respond i st d s).env.caller = s.env.caller := rfl
@[simp] theorem respond_env_emitted (i : Instr) (st : Status) (d : BitVec 32) : (respond i st d s).env.emitted = s.env.emitted := rfl
@[simp] theorem respond_env_events (i : Instr) (st : Status) (d : BitVec 32) : (respond i st d s).env.events = s.env.events ++ [.response i ⟨st, d⟩] := rfl
@[simp] theorem respond_env_line (i : Instr) (st : Status) (d : BitVec 32) : (respond i st d s).env.line = s.env.line := rfl
@[simp] theorem respond_env_lineHeld (i : Instr) (st : Status) (d : BitVec 32) : (respond i st d s).env.lineHeld = s.env.lineHeld := rfl

@[simp] theorem redraw_init : (redraw s).init = s.init := rfl
@[simp] theorem redraw_N : (redraw s).N = s.N := rfl
@[simp] theorem redraw_PB : (redraw s).PB = s.PB := rfl
@[simp] theorem redraw_CFGR : (redraw s).CFGR = s.CFGR := rfl
@[simp] theorem redraw_ready : (redraw s).ready = s.ready := rfl
@[simp] theorem redraw_IS : (redraw s).IS = s.IS := rfl
@[simp] theorem redraw_isValid : (redraw s).isValid = s.isValid := rfl
@[simp] theorem redraw_busy : (redraw s).busy = s.busy := rfl
@[simp] theorem redraw_pos : (redraw s).pos = s.pos := rfl
@[simp] theorem redraw_fault : (redraw s).fault = s.fault := rfl
@[simp] theorem redraw_env_program : (redraw s).env.program = s.env.program := rfl
@[simp] theorem redraw_env_next : (redraw s).env.next = Config.draw s.env.drawn := rfl
@[simp] theorem redraw_env_drawn : (redraw s).env.drawn = s.env.drawn + 1 := rfl
@[simp] theorem redraw_env_caller : (redraw s).env.caller = s.env.caller := rfl
@[simp] theorem redraw_env_emitted : (redraw s).env.emitted = s.env.emitted := rfl
@[simp] theorem redraw_env_events : (redraw s).env.events = s.env.events := rfl
@[simp] theorem redraw_env_line : (redraw s).env.line = s.env.line := rfl
@[simp] theorem redraw_env_lineHeld : (redraw s).env.lineHeld = s.env.lineHeld := rfl

@[simp] theorem driveLine_init (l : List Level) : (driveLine l s).init = s.init := rfl
@[simp] theorem driveLine_N (l : List Level) : (driveLine l s).N = s.N := rfl
@[simp] theorem driveLine_PB (l : List Level) : (driveLine l s).PB = s.PB := rfl
@[simp] theorem driveLine_CFGR (l : List Level) : (driveLine l s).CFGR = s.CFGR := rfl
@[simp] theorem driveLine_ready (l : List Level) : (driveLine l s).ready = s.ready := rfl
@[simp] theorem driveLine_IS (l : List Level) : (driveLine l s).IS = s.IS := rfl
@[simp] theorem driveLine_isValid (l : List Level) : (driveLine l s).isValid = s.isValid := rfl
@[simp] theorem driveLine_busy (l : List Level) : (driveLine l s).busy = s.busy := rfl
@[simp] theorem driveLine_pos (l : List Level) : (driveLine l s).pos = s.pos := rfl
@[simp] theorem driveLine_fault (l : List Level) : (driveLine l s).fault = s.fault := rfl
@[simp] theorem driveLine_env_program (l : List Level) : (driveLine l s).env.program = s.env.program := rfl
@[simp] theorem driveLine_env_next (l : List Level) : (driveLine l s).env.next = s.env.next := rfl
@[simp] theorem driveLine_env_drawn (l : List Level) : (driveLine l s).env.drawn = s.env.drawn := rfl
@[simp] theorem driveLine_env_caller (l : List Level) : (driveLine l s).env.caller = s.env.caller := rfl
@[simp] theorem driveLine_env_emitted (l : List Level) : (driveLine l s).env.emitted = s.env.emitted := rfl
@[simp] theorem driveLine_env_events (l : List Level) : (driveLine l s).env.events = s.env.events := rfl
@[simp] theorem driveLine_env_line (l : List Level) : (driveLine l s).env.line = s.env.line ++ l := rfl
@[simp] theorem driveLine_env_lineHeld (l : List Level) : (driveLine l s).env.lineHeld = s.env.lineHeld := rfl

@[simp] theorem popWord_init : (popWord s).init = s.init := rfl
@[simp] theorem popWord_N : (popWord s).N = s.N := rfl
@[simp] theorem popWord_PB : (popWord s).PB = s.PB := rfl
@[simp] theorem popWord_CFGR : (popWord s).CFGR = s.CFGR := rfl
@[simp] theorem popWord_ready : (popWord s).ready = s.ready := rfl
@[simp] theorem popWord_IS : (popWord s).IS = s.IS := rfl
@[simp] theorem popWord_isValid : (popWord s).isValid = s.isValid := rfl
@[simp] theorem popWord_busy : (popWord s).busy = s.busy := rfl
@[simp] theorem popWord_pos : (popWord s).pos = s.pos := rfl
@[simp] theorem popWord_fault : (popWord s).fault = s.fault := rfl
@[simp] theorem popWord_env_program : (popWord s).env.program = s.env.program.tail := rfl
@[simp] theorem popWord_env_next : (popWord s).env.next = s.env.next := rfl
@[simp] theorem popWord_env_drawn : (popWord s).env.drawn = s.env.drawn := rfl
@[simp] theorem popWord_env_caller : (popWord s).env.caller = s.env.caller := rfl
@[simp] theorem popWord_env_emitted : (popWord s).env.emitted = s.env.emitted := rfl
@[simp] theorem popWord_env_events : (popWord s).env.events = s.env.events := rfl
@[simp] theorem popWord_env_line : (popWord s).env.line = s.env.line := rfl
@[simp] theorem popWord_env_lineHeld : (popWord s).env.lineHeld = s.env.lineHeld := rfl

@[simp] theorem raiseFault_init (r : FaultReason) : (raiseFault r s).init = s.init := rfl
@[simp] theorem raiseFault_N (r : FaultReason) : (raiseFault r s).N = s.N := rfl
@[simp] theorem raiseFault_PB (r : FaultReason) : (raiseFault r s).PB = s.PB := rfl
@[simp] theorem raiseFault_CFGR (r : FaultReason) : (raiseFault r s).CFGR = s.CFGR := rfl
@[simp] theorem raiseFault_ready (r : FaultReason) : (raiseFault r s).ready = s.ready := rfl
@[simp] theorem raiseFault_IS (r : FaultReason) : (raiseFault r s).IS = s.IS := rfl
@[simp] theorem raiseFault_isValid (r : FaultReason) : (raiseFault r s).isValid = s.isValid := rfl
@[simp] theorem raiseFault_busy (r : FaultReason) : (raiseFault r s).busy = s.busy := rfl
@[simp] theorem raiseFault_pos (r : FaultReason) : (raiseFault r s).pos = s.pos := rfl
@[simp] theorem raiseFault_fault (r : FaultReason) : (raiseFault r s).fault = some r := rfl
@[simp] theorem raiseFault_env (r : FaultReason) : (raiseFault r s).env = s.env := rfl

@[simp] theorem createBuffer_init (n : Nat) : (createBuffer n s).init = true := rfl
@[simp] theorem createBuffer_N (n : Nat) : (createBuffer n s).N = n := rfl
@[simp] theorem createBuffer_PB (n : Nat) : (createBuffer n s).PB = [] := rfl
@[simp] theorem createBuffer_CFGR (n : Nat) : (createBuffer n s).CFGR = s.CFGR := rfl
@[simp] theorem createBuffer_ready (n : Nat) : (createBuffer n s).ready = s.ready := rfl
@[simp] theorem createBuffer_IS (n : Nat) : (createBuffer n s).IS = s.IS := rfl
@[simp] theorem createBuffer_isValid (n : Nat) : (createBuffer n s).isValid = s.isValid := rfl
@[simp] theorem createBuffer_busy (n : Nat) : (createBuffer n s).busy = s.busy := rfl
@[simp] theorem createBuffer_pos (n : Nat) : (createBuffer n s).pos = s.pos := rfl
@[simp] theorem createBuffer_fault (n : Nat) : (createBuffer n s).fault = s.fault := rfl
@[simp] theorem createBuffer_env (n : Nat) : (createBuffer n s).env = s.env := rfl

@[simp] theorem loadFrame_init : (loadFrame s).init = s.init := rfl
@[simp] theorem loadFrame_N : (loadFrame s).N = s.N := rfl
@[simp] theorem loadFrame_PB : (loadFrame s).PB = s.PB := rfl
@[simp] theorem loadFrame_CFGR : (loadFrame s).CFGR = s.CFGR := rfl
@[simp] theorem loadFrame_ready : (loadFrame s).ready = s.ready := rfl
@[simp] theorem loadFrame_IS : (loadFrame s).IS = encodeFrame (pixels s) := rfl
@[simp] theorem loadFrame_isValid : (loadFrame s).isValid = true := rfl
@[simp] theorem loadFrame_busy : (loadFrame s).busy = s.busy := rfl
@[simp] theorem loadFrame_pos : (loadFrame s).pos = s.pos := rfl
@[simp] theorem loadFrame_fault : (loadFrame s).fault = s.fault := rfl
@[simp] theorem loadFrame_env : (loadFrame s).env = s.env := rfl

@[simp] theorem callInstall_init : (callInstall s).init = s.init := rfl
@[simp] theorem callInstall_N : (callInstall s).N = s.N := rfl
@[simp] theorem callInstall_PB : (callInstall s).PB = s.PB := rfl
@[simp] theorem callInstall_CFGR : (callInstall s).CFGR = s.CFGR := rfl
@[simp] theorem callInstall_ready : (callInstall s).ready = s.ready := rfl
@[simp] theorem callInstall_IS : (callInstall s).IS = s.IS := rfl
@[simp] theorem callInstall_isValid : (callInstall s).isValid = s.isValid := rfl
@[simp] theorem callInstall_busy : (callInstall s).busy = s.busy := rfl
@[simp] theorem callInstall_pos : (callInstall s).pos = s.pos := rfl
@[simp] theorem callInstall_fault : (callInstall s).fault = s.fault := rfl
@[simp] theorem callInstall_env_program : (callInstall s).env.program = s.env.program := rfl
@[simp] theorem callInstall_env_next : (callInstall s).env.next = s.env.next := rfl
@[simp] theorem callInstall_env_drawn : (callInstall s).env.drawn = s.env.drawn := rfl
@[simp] theorem callInstall_env_caller : (callInstall s).env.caller = s.env.caller := rfl
@[simp] theorem callInstall_env_emitted : (callInstall s).env.emitted = s.env.emitted := rfl
@[simp] theorem callInstall_env_events : (callInstall s).env.events = s.env.events ++ [.install s.CFGR.channel s.env.next.install] := rfl
@[simp] theorem callInstall_env_line : (callInstall s).env.line = s.env.line := rfl
@[simp] theorem callInstall_env_lineHeld : (callInstall s).env.lineHeld = s.env.lineHeld := rfl

@[simp] theorem startTransmission_init (c : Caller) : (startTransmission c s).init = s.init := rfl
@[simp] theorem startTransmission_N (c : Caller) : (startTransmission c s).N = s.N := rfl
@[simp] theorem startTransmission_PB (c : Caller) : (startTransmission c s).PB = s.PB := rfl
@[simp] theorem startTransmission_CFGR (c : Caller) : (startTransmission c s).CFGR = s.CFGR := rfl
@[simp] theorem startTransmission_ready (c : Caller) : (startTransmission c s).ready = s.ready := rfl
@[simp] theorem startTransmission_IS (c : Caller) : (startTransmission c s).IS = s.IS := rfl
@[simp] theorem startTransmission_isValid (c : Caller) : (startTransmission c s).isValid = s.isValid := rfl
@[simp] theorem startTransmission_busy (c : Caller) : (startTransmission c s).busy = true := rfl
@[simp] theorem startTransmission_pos (c : Caller) : (startTransmission c s).pos = 0 := rfl
@[simp] theorem startTransmission_fault (c : Caller) : (startTransmission c s).fault = s.fault := rfl
@[simp] theorem startTransmission_env_program (c : Caller) : (startTransmission c s).env.program = s.env.program := rfl
@[simp] theorem startTransmission_env_next (c : Caller) : (startTransmission c s).env.next = Config.draw s.env.drawn := rfl
@[simp] theorem startTransmission_env_drawn (c : Caller) : (startTransmission c s).env.drawn = s.env.drawn + 1 := rfl
@[simp] theorem startTransmission_env_caller (c : Caller) : (startTransmission c s).env.caller = c := rfl
@[simp] theorem startTransmission_env_emitted (c : Caller) : (startTransmission c s).env.emitted = [] := rfl
@[simp] theorem startTransmission_env_events (c : Caller) : (startTransmission c s).env.events = s.env.events ++ [.transmit s.CFGR.channel s.IS true] := rfl
@[simp] theorem startTransmission_env_line (c : Caller) : (startTransmission c s).env.line = s.env.line ++ List.replicate s.env.next.idleTicks .L := rfl
@[simp] theorem startTransmission_env_lineHeld (c : Caller) : (startTransmission c s).env.lineHeld = s.env.lineHeld := rfl

@[simp] theorem emitItem_init (it : Item) : (emitItem it s).init = s.init := rfl
@[simp] theorem emitItem_N (it : Item) : (emitItem it s).N = s.N := rfl
@[simp] theorem emitItem_PB (it : Item) : (emitItem it s).PB = s.PB := rfl
@[simp] theorem emitItem_CFGR (it : Item) : (emitItem it s).CFGR = s.CFGR := rfl
@[simp] theorem emitItem_ready (it : Item) : (emitItem it s).ready = s.ready := rfl
@[simp] theorem emitItem_IS (it : Item) : (emitItem it s).IS = s.IS := rfl
@[simp] theorem emitItem_isValid (it : Item) : (emitItem it s).isValid = s.isValid := rfl
@[simp] theorem emitItem_busy (it : Item) : (emitItem it s).busy = s.busy := rfl
@[simp] theorem emitItem_pos (it : Item) : (emitItem it s).pos = s.pos + 1 := rfl
@[simp] theorem emitItem_fault (it : Item) : (emitItem it s).fault = s.fault := rfl
@[simp] theorem emitItem_env_program (it : Item) : (emitItem it s).env.program = s.env.program := rfl
@[simp] theorem emitItem_env_next (it : Item) : (emitItem it s).env.next = Config.draw s.env.drawn := rfl
@[simp] theorem emitItem_env_drawn (it : Item) : (emitItem it s).env.drawn = s.env.drawn + 1 := rfl
@[simp] theorem emitItem_env_caller (it : Item) : (emitItem it s).env.caller = s.env.caller := rfl
@[simp] theorem emitItem_env_emitted (it : Item) : (emitItem it s).env.emitted = s.env.emitted ++ [it] := rfl
@[simp] theorem emitItem_env_events (it : Item) : (emitItem it s).env.events = s.env.events := rfl
@[simp] theorem emitItem_env_line (it : Item) : (emitItem it s).env.line = s.env.line := rfl
@[simp] theorem emitItem_env_lineHeld (it : Item) : (emitItem it s).env.lineHeld = s.env.lineHeld := rfl

@[simp] theorem completeTransmission_init (a : Config.Answer) : (completeTransmission a s).init = s.init := rfl
@[simp] theorem completeTransmission_N (a : Config.Answer) : (completeTransmission a s).N = s.N := rfl
@[simp] theorem completeTransmission_PB (a : Config.Answer) : (completeTransmission a s).PB = s.PB := rfl
@[simp] theorem completeTransmission_CFGR (a : Config.Answer) : (completeTransmission a s).CFGR = s.CFGR := rfl
@[simp] theorem completeTransmission_ready (a : Config.Answer) : (completeTransmission a s).ready = s.ready := rfl
@[simp] theorem completeTransmission_IS (a : Config.Answer) : (completeTransmission a s).IS = s.IS := rfl
@[simp] theorem completeTransmission_isValid (a : Config.Answer) : (completeTransmission a s).isValid = false := rfl
@[simp] theorem completeTransmission_busy (a : Config.Answer) : (completeTransmission a s).busy = false := rfl
@[simp] theorem completeTransmission_pos (a : Config.Answer) : (completeTransmission a s).pos = s.pos := rfl
@[simp] theorem completeTransmission_fault (a : Config.Answer) : (completeTransmission a s).fault = s.fault := rfl
@[simp] theorem completeTransmission_env_program (a : Config.Answer) : (completeTransmission a s).env.program = s.env.program := rfl
@[simp] theorem completeTransmission_env_next (a : Config.Answer) : (completeTransmission a s).env.next = Config.draw s.env.drawn := rfl
@[simp] theorem completeTransmission_env_drawn (a : Config.Answer) : (completeTransmission a s).env.drawn = s.env.drawn + 1 := rfl
@[simp] theorem completeTransmission_env_caller (a : Config.Answer) : (completeTransmission a s).env.caller = s.env.caller := rfl
@[simp] theorem completeTransmission_env_emitted (a : Config.Answer) : (completeTransmission a s).env.emitted = s.env.emitted := rfl
@[simp] theorem completeTransmission_env_events (a : Config.Answer) : (completeTransmission a s).env.events = (s.env.events ++ [.complete a]) ++ [.response s.env.caller.instr ⟨transmitStatus a, 0⟩] := rfl
@[simp] theorem completeTransmission_env_line (a : Config.Answer) : (completeTransmission a s).env.line = s.env.line ++ carried a s := rfl
@[simp] theorem completeTransmission_env_lineHeld (a : Config.Answer) : (completeTransmission a s).env.lineHeld = s.env.lineHeld := rfl

@[simp] theorem storePixel_init (i : Int) (c : Color) : (storePixel i c s).init = s.init := by
  unfold storePixel; split <;> rfl
@[simp] theorem storePixel_N (i : Int) (c : Color) : (storePixel i c s).N = s.N := by
  unfold storePixel; split <;> rfl
@[simp] theorem storePixel_CFGR (i : Int) (c : Color) : (storePixel i c s).CFGR = s.CFGR := by
  unfold storePixel; split <;> rfl
@[simp] theorem storePixel_ready (i : Int) (c : Color) : (storePixel i c s).ready = s.ready := by
  unfold storePixel; split <;> rfl
@[simp] theorem storePixel_IS (i : Int) (c : Color) : (storePixel i c s).IS = s.IS := by
  unfold storePixel; split <;> rfl
@[simp] theorem storePixel_isValid (i : Int) (c : Color) : (storePixel i c s).isValid = s.isValid := by
  unfold storePixel; split <;> rfl
@[simp] theorem storePixel_busy (i : Int) (c : Color) : (storePixel i c s).busy = s.busy := by
  unfold storePixel; split <;> rfl
@[simp] theorem storePixel_pos (i : Int) (c : Color) : (storePixel i c s).pos = s.pos := by
  unfold storePixel; split <;> rfl
@[simp] theorem storePixel_fault (i : Int) (c : Color) : (storePixel i c s).fault = s.fault := by
  unfold storePixel; split <;> rfl
@[simp] theorem storePixel_env (i : Int) (c : Color) : (storePixel i c s).env = s.env := by
  unfold storePixel; split <;> rfl

@[simp] theorem holdLine_init : (holdLine s).init = s.init := by
  unfold holdLine; split <;> rfl
@[simp] theorem holdLine_N : (holdLine s).N = s.N := by
  unfold holdLine; split <;> rfl
@[simp] theorem holdLine_PB : (holdLine s).PB = s.PB := by
  unfold holdLine; split <;> rfl
@[simp] theorem holdLine_CFGR : (holdLine s).CFGR = s.CFGR := by
  unfold holdLine; split <;> rfl
@[simp] theorem holdLine_ready : (holdLine s).ready = s.ready := by
  unfold holdLine; split <;> rfl
@[simp] theorem holdLine_IS : (holdLine s).IS = s.IS := by
  unfold holdLine; split <;> rfl
@[simp] theorem holdLine_isValid : (holdLine s).isValid = s.isValid := by
  unfold holdLine; split <;> rfl
@[simp] theorem holdLine_busy : (holdLine s).busy = s.busy := by
  unfold holdLine; split <;> rfl
@[simp] theorem holdLine_pos : (holdLine s).pos = s.pos := by
  unfold holdLine; split <;> rfl
@[simp] theorem holdLine_fault : (holdLine s).fault = s.fault := by
  unfold holdLine; split <;> rfl
@[simp] theorem holdLine_env_program : (holdLine s).env.program = s.env.program := by
  unfold holdLine; split <;> rfl
@[simp] theorem holdLine_env_next : (holdLine s).env.next = s.env.next := by
  unfold holdLine; split <;> rfl
@[simp] theorem holdLine_env_drawn : (holdLine s).env.drawn = s.env.drawn := by
  unfold holdLine; split <;> rfl
@[simp] theorem holdLine_env_caller : (holdLine s).env.caller = s.env.caller := by
  unfold holdLine; split <;> rfl
@[simp] theorem holdLine_env_emitted : (holdLine s).env.emitted = s.env.emitted := by
  unfold holdLine; split <;> rfl
@[simp] theorem holdLine_env_events : (holdLine s).env.events = s.env.events := by
  unfold holdLine; split <;> rfl
@[simp] theorem holdLine_env_line : (holdLine s).env.line =
    s.env.line ++ (if s.env.lineHeld then []
      else (List.range s.env.next.idleTicks).map Config.lineBeforeConfigure ++ [.L]) := by
  unfold holdLine; split <;> simp_all
@[simp] theorem holdLine_env_lineHeld : (holdLine s).env.lineHeld = true := by
  unfold holdLine; split <;> simp_all

@[simp] theorem callConfigure_init : (callConfigure s).init = s.init := rfl
@[simp] theorem callConfigure_N : (callConfigure s).N = s.N := rfl
@[simp] theorem callConfigure_PB : (callConfigure s).PB = s.PB := rfl
@[simp] theorem callConfigure_CFGR : (callConfigure s).CFGR = s.CFGR := rfl
@[simp] theorem callConfigure_ready : (callConfigure s).ready = s.ready := rfl
@[simp] theorem callConfigure_IS : (callConfigure s).IS = s.IS := rfl
@[simp] theorem callConfigure_isValid : (callConfigure s).isValid = s.isValid := rfl
@[simp] theorem callConfigure_busy : (callConfigure s).busy = s.busy := rfl
@[simp] theorem callConfigure_pos : (callConfigure s).pos = s.pos := rfl
@[simp] theorem callConfigure_fault : (callConfigure s).fault = s.fault := rfl
@[simp] theorem callConfigure_env_program : (callConfigure s).env.program = s.env.program := rfl
@[simp] theorem callConfigure_env_next : (callConfigure s).env.next = s.env.next := rfl
@[simp] theorem callConfigure_env_drawn : (callConfigure s).env.drawn = s.env.drawn := rfl
@[simp] theorem callConfigure_env_caller : (callConfigure s).env.caller = s.env.caller := rfl
@[simp] theorem callConfigure_env_emitted : (callConfigure s).env.emitted = s.env.emitted := rfl
@[simp] theorem callConfigure_env_events : (callConfigure s).env.events = s.env.events ++
    [.configure s.CFGR.pin s.CFGR.channel s.CFGR.clockDivisor .L false false true s.env.next.configure] := rfl
@[simp] theorem callConfigure_env_line : (callConfigure s).env.line = s.env.line := rfl
@[simp] theorem callConfigure_env_lineHeld : (callConfigure s).env.lineHeld = s.env.lineHeld := rfl

end Sys2Proof.Machine
end

