-- ==== Sys2Proof/Laws/Ops.lean ====
section
/-! SUPPORT. What each shared operation can do, said once: the pixel buffer's memory laws and canonical form, acceptance
and its checks, the configuration, the start of a transmission, a generator step. -/

namespace Sys2Proof.Machine

/-! ## The pixel buffer -/

theorem readPixel_of_forall_lt {pb : List (Nat × Color)} {k : Nat} (h : ∀ x ∈ pb, k < x.1) :
    readPixel pb k = unlisted := by
  induction pb with
  | nil => rfl
  | cons x rest ih =>
    have hx := h x (by simp)
    simp only [readPixel]
    rw [if_neg (by omega)]
    exact ih fun y hy => h y (by simp [hy])

theorem Memory.wf_tail {x : Nat × Color} {pb : List (Nat × Color)} (h : Memory.wf (x :: pb)) : Memory.wf pb :=
  ⟨(List.pairwise_cons.1 h.1).2, fun y hy => h.2 y (by simp [hy])⟩

theorem Memory.wf_head_lt {x : Nat × Color} {pb : List (Nat × Color)} (h : Memory.wf (x :: pb)) :
    ∀ y ∈ pb, x.1 < y.1 := (List.pairwise_cons.1 h.1).1

/-- A read after a write to the same entry gives the Color written. -/
theorem readPixel_writePixel_same {pb : List (Nat × Color)} (h : Memory.wf pb) (k : Nat) (c : Color) :
    readPixel (writePixel pb k c) k = c := by
  induction pb with
  | nil => by_cases hc : c = unlisted <;> simp [writePixel, readPixel, hc]
  | cons x rest ih =>
    obtain ⟨j, d⟩ := x
    have hlt := Memory.wf_head_lt h
    simp only [writePixel]
    split_ifs with h1 h2 h3 h4
    · rw [h2]
      refine readPixel_of_forall_lt fun y hy => ?_
      rcases List.mem_cons.1 hy with rfl | hy
      · exact h1
      · exact lt_trans h1 (hlt y hy)
    · simp [readPixel]
    · rw [h4]
      exact readPixel_of_forall_lt fun y hy => by have := hlt y hy; simp at this; omega
    · simp [readPixel]
    · simp only [readPixel]
      rw [if_neg (by omega)]
      exact ih (Memory.wf_tail h)

/-- A write leaves every other entry alone. -/
theorem readPixel_writePixel_other (pb : List (Nat × Color)) {j k : Nat} (c : Color) (hjk : j ≠ k) :
    readPixel (writePixel pb k c) j = readPixel pb j := by
  induction pb with
  | nil => by_cases hc : c = unlisted <;> simp [writePixel, readPixel, hc, Ne.symm hjk]
  | cons x rest ih =>
    obtain ⟨a, d⟩ := x
    simp only [writePixel]
    split_ifs with h1 h2 h3 h4
    · rfl
    · simp [readPixel, Ne.symm hjk]
    · simp [readPixel, ← h3, Ne.symm hjk]
    · simp [readPixel, ← h3, Ne.symm hjk]
    · simp only [readPixel, ih]

/-- Writing the Color an entry already holds changes nothing (R36). -/
theorem writePixel_held {pb : List (Nat × Color)} (h : Memory.wf pb) {k : Nat} {c : Color} (hc : readPixel pb k = c) :
    writePixel pb k c = pb := by
  induction pb with
  | nil => simp [readPixel] at hc; simp [writePixel, hc]
  | cons x rest ih =>
    obtain ⟨j, d⟩ := x
    have hlt := Memory.wf_head_lt h
    simp only [readPixel] at hc
    simp only [writePixel]
    split_ifs with h1 h2 h3 h4
    · rfl
    · rw [if_neg (by omega)] at hc
      exact absurd (hc ▸ readPixel_of_forall_lt fun y hy => lt_trans h1 (hlt y hy)) h2
    · rw [if_pos h3.symm] at hc
      exact absurd (hc.trans h4) (h.2 (j, d) (by simp))
    · rw [if_pos h3.symm] at hc
      rw [h3, hc]
    · rw [if_neg (by omega)] at hc
      rw [ih (Memory.wf_tail h) hc]

theorem mem_writePixel {pb : List (Nat × Color)} {k : Nat} {c : Color} {x : Nat × Color}
    (h : x ∈ writePixel pb k c) : x ∈ pb ∨ (x = (k, c) ∧ c ≠ unlisted) := by
  induction pb with
  | nil => by_cases hc : c = unlisted <;> simp_all [writePixel]
  | cons y rest ih =>
    obtain ⟨a, d⟩ := y
    simp only [writePixel] at h
    split_ifs at h with h1 h2 h3 h4
    · exact .inl h
    · rcases List.mem_cons.1 h with h | h
      · exact .inr ⟨h, h2⟩
      · exact .inl h
    · exact .inl (by simp [h])
    · rcases List.mem_cons.1 h with h | h
      · exact .inr ⟨h, h4⟩
      · exact .inl (by simp [h])
    · rcases List.mem_cons.1 h with h | h
      · exact .inl (by simp [h])
      · exact (ih h).imp (fun h => by simp [h]) id

/-- A write keeps the canonical form. -/
theorem writePixel_wf {pb : List (Nat × Color)} (h : Memory.wf pb) (k : Nat) (c : Color) :
    Memory.wf (writePixel pb k c) := by
  constructor
  · induction pb with
    | nil => by_cases hc : c = unlisted <;> simp [writePixel, hc]
    | cons y rest ih =>
      obtain ⟨a, d⟩ := y
      have hlt := Memory.wf_head_lt h
      have htail := Memory.wf_tail h
      simp only [writePixel]
      split_ifs with h1 h2 h3 h4
      · exact h.1
      · refine List.pairwise_cons.2 ⟨fun y hy => ?_, h.1⟩
        rcases List.mem_cons.1 hy with rfl | hy
        · exact h1
        · exact lt_trans h1 (hlt y hy)
      · exact htail.1
      · exact List.pairwise_cons.2 ⟨fun y hy => by have := hlt y hy; simp at this ⊢; omega, htail.1⟩
      · refine List.pairwise_cons.2 ⟨fun y hy => ?_, ih htail⟩
        rcases mem_writePixel hy with hy | ⟨rfl, -⟩
        · exact hlt y hy
        · simp; omega
  · intro x hx
    rcases mem_writePixel hx with hx | ⟨rfl, hc⟩
    · exact h.2 x hx
    · exact hc

/-- A write to an entry below `n` keeps every listed entry below `n`. -/
theorem writePixel_within {n : Nat} {pb : List (Nat × Color)} (h : Memory.within n pb) {k : Nat} (hk : k < n)
    (c : Color) : Memory.within n (writePixel pb k c) := by
  intro x hx
  rcases mem_writePixel hx with hx | ⟨rfl, -⟩
  · exact h x hx
  · exact hk

/-- The buffer that lists nothing has the canonical form. -/
theorem Memory.wf_nil : Memory.wf [] := ⟨List.Pairwise.nil, fun _ h => absurd h List.not_mem_nil⟩

/-- Reset's pixel buffer has the canonical form. -/
theorem reset_wf : Memory.wf State.reset.PB := Memory.wf_nil

@[simp] theorem length_pixels (s : State) : (pixels s).length = s.N := by simp [pixels]

@[simp] theorem getElem_pixels (s : State) (k : Nat) (h : k < (pixels s).length) :
    (pixels s)[k] = readPixel s.PB k := by simp [pixels]

/-- After INIT every entry is `ZERO` (R65). -/
@[simp] theorem pixels_createBuffer (n : Nat) (s : State) :
    pixels (createBuffer n s) = List.replicate n Color.zero := by
  simp only [pixels, createBuffer_N, createBuffer_PB, readPixel, unlisted]
  exact List.ext_getElem (by simp) (by simp)

theorem inRange_iff {n : Nat} {i : Int} : inRange n i = true ↔ 0 ≤ i ∧ i < (n : Int) := by simp [inRange]

theorem pixelIndex_lt {n : Nat} {i : Int} (h : inRange n i = true) : pixelIndex i < n := by
  rw [inRange_iff] at h
  simp only [pixelIndex]
  omega

/-- An in-range write replaces one entry of the sequence `PB` (R66). -/
theorem pixels_storePixel {s : State} (hwf : Memory.wf s.PB) {i : Int} (h : inRange s.N i = true) (c : Color) :
    pixels (storePixel i c s) = (pixels s).set (pixelIndex i) c := by
  refine List.ext_getElem (by simp) fun k h1 h2 => ?_
  rw [getElem_pixels, List.getElem_set, getElem_pixels]
  simp only [storePixel, h, if_true]
  split_ifs with hk
  · rw [← hk, readPixel_writePixel_same hwf]
  · exact readPixel_writePixel_other _ _ (Ne.symm hk)

/-- An out-of-range write changes nothing (R32). -/
theorem storePixel_out {s : State} {i : Int} (h : inRange s.N i = false) (c : Color) : storePixel i c s = s := by
  simp [storePixel, h]

theorem storePixel_wf {s : State} (hwf : Memory.wf s.PB) (i : Int) (c : Color) : Memory.wf (storePixel i c s).PB := by
  unfold storePixel
  split
  · exact writePixel_wf hwf _ _
  · exact hwf

theorem storePixel_within {s : State} (h : Memory.within s.N s.PB) (i : Int) (c : Color) :
    Memory.within s.N (storePixel i c s).PB := by
  unfold storePixel
  split
  · next hi => exact writePixel_within h (pixelIndex_lt hi) c
  · exact h

/-! ## Acceptance and its checks -/

/-- An accepting block performs the command. -/
theorem accept_accepting {body : State → State} {s : State} (hf : s.fault = none) (hb : s.busy = false) :
    accept body s = .next (body s) := by simp [accept, hf, hb]

/-- A faulted block accepts nothing. -/
theorem accept_of_fault {body : State → State} {s : State} {r : FaultReason} (h : s.fault = some r) :
    accept body s = .fault (.blockFaulted r) := by simp [accept, h]

/-- A busy block holds the command. -/
theorem accept_of_busy {body : State → State} {s : State} (hf : s.fault = none) (hb : s.busy = true) :
    accept body s = .next s := by simp [accept, hf, hb]

/-- Everything acceptance can do: not at all when faulted, hold when busy, else perform. -/
theorem accept_next {body : State → State} {s t : State} (h : accept body s = .next t) :
    s.fault = none ∧ ((s.busy = true ∧ t = s) ∨ (s.busy = false ∧ t = body s)) := by
  unfold accept at h
  split at h
  · cases h
  · next hf =>
    split at h
    · next hb => exact ⟨hf, .inl ⟨hb, by injection h with h; exact h.symm⟩⟩
    · next hb => exact ⟨hf, .inr ⟨by simpa using hb, by injection h with h; exact h.symm⟩⟩

/-- A block with its buffer passes check 5. -/
theorem needInit_of_init {body : State → State} {s : State} (h : s.init = true) : needInit body s = body s := by
  simp [needInit, h]

/-- Everything check 5 can do. -/
theorem needInit_cases (body : State → State) (s : State) :
    (s.init = true ∧ needInit body s = body s) ∨ (s.init = false ∧ needInit body s = raiseFault .uninit s) := by
  unfold needInit; split <;> simp_all

/-- A fresh block and an admitted count pass checks 4 and 6. -/
theorem needFresh_of_fresh {n : Nat} {body : State → State} {s : State} (h : s.init = false) (hn : n ≤ Config.nmax) :
    needFresh n body s = body s := by
  simp [needFresh, h, Nat.not_lt.2 hn]

/-- Everything checks 4 and 6 can do. -/
theorem needFresh_cases (n : Nat) (body : State → State) (s : State) :
    (s.init = false ∧ n ≤ Config.nmax ∧ needFresh n body s = body s) ∨
      ∃ r, needFresh n body s = raiseFault r s := by
  unfold needFresh
  split
  · exact .inr ⟨_, rfl⟩
  · split
    · exact .inr ⟨_, rfl⟩
    · next h1 h2 => exact .inl ⟨by simpa using h1, Nat.not_lt.1 h2, rfl⟩

/-- TX with a frame passes check 8. -/
theorem needFrame_of_valid {body : State → State} {s : State} (h : s.isValid = true) : needFrame body s = body s := by
  simp [needFrame, h]

/-- RDPX in range passes check 7. -/
theorem needInRange_of_inRange {i : Int} {body : State → State} {s : State} (h : inRange s.N i = true) :
    needInRange i body s = body s := by
  simp [needInRange, h]

/-! ## Configuration -/

/-- Everything the body of CFG can do (R105): which fields it leaves, what it writes, the three ways it ends. -/
structure ConfigureSpec (i : Instr) (pin channel clockDivisor : Byte) (s t : State) : Prop where
  init_eq : t.init = s.init
  N_eq : t.N = s.N
  PB_eq : t.PB = s.PB
  IS_eq : t.IS = s.IS
  isValid_eq : t.isValid = s.isValid
  busy_eq : t.busy = s.busy
  pos_eq : t.pos = s.pos
  fault_eq : t.fault = s.fault
  program_eq : t.env.program = s.env.program
  caller_eq : t.env.caller = s.env.caller
  emitted_eq : t.env.emitted = s.env.emitted
  CFGR_eq : t.CFGR = ⟨pin, channel, clockDivisor⟩
  ready_eq : t.ready = (decide (s.env.next.configure = .ok) && decide (s.env.next.install = .ok))
  held_eq : t.env.lineHeld = (s.env.lineHeld || t.ready)
  line_eq : t.env.line = s.env.line ++ (if s.env.lineHeld || !t.ready then []
    else (List.range s.env.next.idleTicks).map Config.lineBeforeConfigure ++ [.L])

theorem configureTransport_spec (i : Instr) (pin channel clockDivisor : Byte) (s : State) :
    ConfigureSpec i pin channel clockDivisor s (configureTransport i pin channel clockDivisor s) := by
  unfold configureTransport
  cases h1 : s.env.next.configure <;> cases h2 : s.env.next.install <;>
    constructor <;> simp [h1, h2, callInstall, record]

/-! ## Transmission -/

/-- Everything the body of TX can do behind its faults (R107). -/
theorem transmitFrame_cases (c : Caller) (s : State) :
    (s.ready = true ∧ transmitFrame c s = startTransmission c s) ∨
      (s.ready = false ∧ transmitFrame c s = respond c.instr .errTransmit 0 { s with isValid := false }) := by
  unfold transmitFrame; split <;> simp_all

/-- A configured transport hands the frame over. -/
theorem transmitFrame_ready {s : State} (h : s.ready = true) (c : Caller) :
    transmitFrame c s = startTransmission c s := by simp [transmitFrame, h]

/-- An unconfigured transport sends nothing and discards the frame (R127). -/
theorem transmitFrame_unready {s : State} (h : s.ready = false) (c : Caller) :
    transmitFrame c s = respond c.instr .errTransmit 0 { s with isValid := false } := by
  unfold transmitFrame; rw [h]; rfl

/-- A symbol is taken exactly while a transmission has items left (R96). -/
theorem takeItem_next {it : Item} {s t : State} (h : takeItem it s = .next t) :
    s.fault = none ∧ s.busy = true ∧ s.pos < s.IS.length ∧ t = emitItem it s := by
  unfold takeItem at h
  split at h
  · cases h
  · next hf =>
    split at h
    · next hc =>
      simp only [Bool.and_eq_true, decide_eq_true_eq] at hc
      exact ⟨hf, hc.1, hc.2, by injection h with h; exact h.symm⟩
    · cases h

theorem takeItem_of_fault {s : State} (it : Item) {r : FaultReason} (h : s.fault = some r) :
    takeItem it s = .fault (.blockFaulted r) := by simp [takeItem, h]

theorem takeItem_enabled {s : State} (it : Item) (hf : s.fault = none) (hb : s.busy = true)
    (hp : s.pos < s.IS.length) : takeItem it s = .next (emitItem it s) := by
  simp [takeItem, hf, hb, hp]

end Sys2Proof.Machine
end

