-- ==== Sys2Proof/Laws/Exec.lean ====
section
/-! SUPPORT. Each instruction as the shared operations it is made of, one equation for each row of the opcode table. -/

namespace Sys2Proof.Machine

variable (s : State)

theorem exec_init (n : Nat) :
    exec (.init n) s = accept (needFresh n (fun t => respond (.init n) .ok 0 (createBuffer n t))) s := rfl
theorem exec_setc (i : Int) (c : Color) :
    exec (.setc i c) s = accept (needInit (fun t => respond (.setc i c) .ok 0 (storePixel i c t))) s := rfl
theorem exec_rdpx (i : Int) :
    exec (.rdpx i) s = accept (needInit (needInRange i
      (fun t => respond (.rdpx i) .ok (readPixel t.PB (pixelIndex i)).pack t))) s := rfl
theorem exec_wrpx (i : Int) (c : Color) :
    exec (.wrpx i c) s = accept (needInit (fun t => respond (.wrpx i c) .ok 0 (storePixel i c t))) s := rfl
theorem exec_count :
    exec .count s = accept (needInit (fun t => respond .count .ok (BitVec.ofNat 32 t.N) t)) s := rfl
theorem exec_enc :
    exec .enc s = accept (needInit (fun t => respond .enc .ok (BitVec.ofNat 32 (32 * t.N + 1)) (loadFrame t))) s := rfl
theorem exec_cfg (p c k : Byte) :
    exec (.cfg p c k) s = accept (configureTransport (.cfg p c k) p c k) s := rfl
theorem exec_tx :
    exec .tx s = accept (needInit (needFrame (transmitFrame .tx))) s := rfl
theorem exec_begin (n : Nat) :
    exec (.begin n) s = accept (needFresh n (fun t =>
      configureTransport (.begin n) Config.pin Config.channel beginDivisor (createBuffer n t))) s := rfl
theorem exec_update :
    exec .update s = accept (needInit (fun t => transmitFrame .update (loadFrame t))) s := rfl
theorem exec_setcv (i : Int) (v : BitVec 32) :
    exec (.setcv i v) s = accept (needInit (fun t =>
      respond (.setc i (Color.unpack v)) .ok 0 (storePixel i (Color.unpack v) t))) s := rfl
theorem exec_setled (i : Int) (c : Color) :
    exec (.setled i c) s = accept (needInit (fun t => respond (.setc i c) .ok 0 (storePixel i c t))) s := rfl
theorem exec_reserved0 (a d : BitVec 32) :
    exec (.reserved0 a d) s = accept (raiseFault .illegalOp) s := rfl
theorem exec_reservedB (a d : BitVec 32) :
    exec (.reservedB a d) s = accept (raiseFault .illegalOp) s := rfl
theorem exec_reservedC (a d : BitVec 32) :
    exec (.reservedC a d) s = accept (raiseFault .illegalOp) s := rfl
theorem exec_reservedD (a d : BitVec 32) :
    exec (.reservedD a d) s = accept (raiseFault .illegalOp) s := rfl
theorem exec_reservedE (a d : BitVec 32) :
    exec (.reservedE a d) s = accept (raiseFault .illegalOp) s := rfl
theorem exec_reservedF (a d : BitVec 32) :
    exec (.reservedF a d) s = accept (raiseFault .illegalOp) s := rfl
theorem exec_t0 :
    exec .t0 s = takeItem symT0 s := rfl
theorem exec_t1 :
    exec .t1 s = takeItem symT1 s := rfl
theorem exec_trst :
    exec .trst s = takeItem symTRST s := rfl

/-- A faulted block performs no instruction (R130, R134 check 1). -/
theorem exec_of_fault (i : Instr) {r : FaultReason} (h : s.fault = some r) : exec i s = .fault (.blockFaulted r) := by
  cases i <;> first | exact accept_of_fault h | exact takeItem_of_fault _ h

/-- A busy block holds every command (R133, R134 check 2). -/
theorem exec_of_busy (i : Instr) (hi : i.opcode ≠ none) (hf : s.fault = none) (hb : s.busy = true) :
    exec i s = .next s := by
  cases i <;> first | exact absurd rfl hi | exact accept_of_busy hf hb

end Sys2Proof.Machine
end

