-- ==== Sys2Proof/Laws/PerInstr.lean ====
section
/-! SUPPORT. A statement about every instruction as syntax: it is spelled with the same word as the row it is another name
of, and that row is well-formed when it is (R63: an alias is the same command word). -/

namespace Sys2Proof.Laws

/-- An alias changes neither the word nor the well-formedness (R63). -/
def CoreWord.Statement (i : Instr) : Prop :=
  encode i.core = encode i ∧ i.core.wf = i.wf ∧ i.core.core = i.core

/-- Packing a Color after unpacking it gives the packed value back (R46). -/
theorem pack_unpack (v : BitVec 32) : (Color.unpack v).pack = v := by
  apply BitVec.eq_of_getLsbD_eq
  intro k hk
  simp only [Color.pack, Color.unpack, BitVec.getLsbD_append, BitVec.getLsbD_extractLsb']
  split_ifs with h1 h2 h3
  · simp [h1]
  · rw [decide_eq_true (by omega), Bool.true_and]; congr 1; omega
  · rw [decide_eq_true (by omega), Bool.true_and]; congr 1; omega
  · rw [decide_eq_true (by omega), Bool.true_and]; congr 1; omega

theorem CoreWord.init (n : Nat) : CoreWord.Statement (.init n) := ⟨rfl, rfl, rfl⟩
theorem CoreWord.setc (i : Int) (c : Color) : CoreWord.Statement (.setc i c) := ⟨rfl, rfl, rfl⟩
theorem CoreWord.rdpx (i : Int) : CoreWord.Statement (.rdpx i) := ⟨rfl, rfl, rfl⟩
theorem CoreWord.wrpx (i : Int) (c : Color) : CoreWord.Statement (.wrpx i c) := ⟨rfl, rfl, rfl⟩
theorem CoreWord.count : CoreWord.Statement (.count) := ⟨rfl, rfl, rfl⟩
theorem CoreWord.enc : CoreWord.Statement (.enc) := ⟨rfl, rfl, rfl⟩
theorem CoreWord.cfg (p c k : Byte) : CoreWord.Statement (.cfg p c k) := ⟨rfl, rfl, rfl⟩
theorem CoreWord.tx : CoreWord.Statement (.tx) := ⟨rfl, rfl, rfl⟩
theorem CoreWord.begin (n : Nat) : CoreWord.Statement (.begin n) := ⟨rfl, rfl, rfl⟩
theorem CoreWord.update : CoreWord.Statement (.update) := ⟨rfl, rfl, rfl⟩
theorem CoreWord.setcv (i : Int) (v : BitVec 32) : CoreWord.Statement (.setcv i v) := ⟨by simp only [Instr.core, encode, pack_unpack], rfl, rfl⟩
theorem CoreWord.setled (i : Int) (c : Color) : CoreWord.Statement (.setled i c) := ⟨rfl, rfl, rfl⟩
theorem CoreWord.reserved0 (a d : BitVec 32) : CoreWord.Statement (.reserved0 a d) := ⟨rfl, rfl, rfl⟩
theorem CoreWord.reservedB (a d : BitVec 32) : CoreWord.Statement (.reservedB a d) := ⟨rfl, rfl, rfl⟩
theorem CoreWord.reservedC (a d : BitVec 32) : CoreWord.Statement (.reservedC a d) := ⟨rfl, rfl, rfl⟩
theorem CoreWord.reservedD (a d : BitVec 32) : CoreWord.Statement (.reservedD a d) := ⟨rfl, rfl, rfl⟩
theorem CoreWord.reservedE (a d : BitVec 32) : CoreWord.Statement (.reservedE a d) := ⟨rfl, rfl, rfl⟩
theorem CoreWord.reservedF (a d : BitVec 32) : CoreWord.Statement (.reservedF a d) := ⟨rfl, rfl, rfl⟩
theorem CoreWord.t0 : CoreWord.Statement (.t0) := ⟨rfl, rfl, rfl⟩
theorem CoreWord.t1 : CoreWord.Statement (.t1) := ⟨rfl, rfl, rfl⟩
theorem CoreWord.trst : CoreWord.Statement (.trst) := ⟨rfl, rfl, rfl⟩

end Sys2Proof.Laws
end

