-- ==== Sys2Proof/Laws/Step.lean ====
section
/-! SUPPORT. What performing an instruction and taking a step can do, said once. -/

namespace Sys2Proof.Machine

/-- What one instruction can do to a state when it answers a next state: the cases every proof about `exec` splits on. -/
inductive Effect (s : State) : State → Prop
  | held (busy : s.busy = true) : Effect s s
  | tookItem (it : Item) (busy : s.busy = true) (more : s.pos < s.IS.length) : Effect s (emitItem it s)
  | faulted (r : FaultReason) (free : s.busy = false) : Effect s (raiseFault r s)
  | created (n : Nat) (free : s.busy = false) (fresh : s.init = false) (fits : n ≤ Config.nmax) :
      Effect s (respond (.init n) .ok 0 (createBuffer n s))
  | wrote (cmd : Instr) (i : Int) (c : Color) (free : s.busy = false) (init : s.init = true) :
      Effect s (respond cmd .ok 0 (storePixel i c s))
  | answered (cmd : Instr) (d : BitVec 32) (free : s.busy = false) (init : s.init = true) :
      Effect s (respond cmd .ok d s)
  | encoded (d : BitVec 32) (free : s.busy = false) (init : s.init = true) :
      Effect s (respond .enc .ok d (loadFrame s))
  | configured (cmd : Instr) (p c k : Byte) (free : s.busy = false) : Effect s (configureTransport cmd p c k s)
  | begun (n : Nat) (p c k : Byte) (free : s.busy = false) (fresh : s.init = false) (fits : n ≤ Config.nmax) :
      Effect s (configureTransport (.begin n) p c k (createBuffer n s))
  | sent (c : Caller) (free : s.busy = false) (init : s.init = true) (valid : s.isValid = true) :
      Effect s (transmitFrame c s)
  | encodedSent (c : Caller) (free : s.busy = false) (init : s.init = true) :
      Effect s (transmitFrame c (loadFrame s))

theorem effect_of_performWrite {cmd : Instr} {i : Int} {c : Color} {s t : State}
    (h : performWrite cmd i c s = .next t) : s.fault = none ∧ Effect s t := by
  obtain ⟨hf, ⟨hb, rfl⟩ | ⟨hb, rfl⟩⟩ := accept_next h
  · exact ⟨hf, .held hb⟩
  · refine ⟨hf, ?_⟩
    rcases needInit_cases (fun t => respond cmd .ok 0 (storePixel i c t)) s with ⟨hi, he⟩ | ⟨-, he⟩ <;> rw [he]
    · exact .wrote cmd i c hb hi
    · exact .faulted _ hb

theorem effect_of_illegalOpcode {s t : State} (h : illegalOpcode s = .next t) : s.fault = none ∧ Effect s t := by
  obtain ⟨hf, ⟨hb, rfl⟩ | ⟨hb, rfl⟩⟩ := accept_next h
  · exact ⟨hf, .held hb⟩
  · exact ⟨hf, .faulted _ hb⟩

theorem effect_of_takeItem {it : Item} {s t : State} (h : takeItem it s = .next t) : s.fault = none ∧ Effect s t := by
  obtain ⟨hf, hb, hp, rfl⟩ := takeItem_next h
  exact ⟨hf, .tookItem it hb hp⟩

/-- Every next state of every instruction is one of the effects, from a state without a fault. -/
theorem exec_effect {i : Instr} {s t : State} (h : exec i s = .next t) : s.fault = none ∧ Effect s t := by
  cases i with
  | init n =>
    obtain ⟨hf, ⟨hb, rfl⟩ | ⟨hb, rfl⟩⟩ := accept_next h
    · exact ⟨hf, .held hb⟩
    · refine ⟨hf, ?_⟩
      rcases needFresh_cases n (fun t => respond (.init n) .ok 0 (createBuffer n t)) s with ⟨hi, hn, he⟩ | ⟨r, he⟩ <;>
        rw [he]
      · exact .created n hb hi hn
      · exact .faulted _ hb
  | setc i c => exact effect_of_performWrite h
  | wrpx i c => exact effect_of_performWrite h
  | setcv i v => exact effect_of_performWrite h
  | setled i c => exact effect_of_performWrite h
  | rdpx i =>
    obtain ⟨hf, ⟨hb, rfl⟩ | ⟨hb, rfl⟩⟩ := accept_next h
    · exact ⟨hf, .held hb⟩
    · refine ⟨hf, ?_⟩
      unfold needInit
      split
      · next hi =>
        unfold needInRange
        split
        · exact .answered _ _ hb hi
        · exact .faulted _ hb
      · exact .faulted _ hb
  | count =>
    obtain ⟨hf, ⟨hb, rfl⟩ | ⟨hb, rfl⟩⟩ := accept_next h
    · exact ⟨hf, .held hb⟩
    · refine ⟨hf, ?_⟩
      rcases needInit_cases (fun t => respond .count .ok (BitVec.ofNat 32 t.N) t) s with ⟨hi, he⟩ | ⟨-, he⟩ <;> rw [he]
      · exact .answered _ _ hb hi
      · exact .faulted _ hb
  | enc =>
    obtain ⟨hf, ⟨hb, rfl⟩ | ⟨hb, rfl⟩⟩ := accept_next h
    · exact ⟨hf, .held hb⟩
    · refine ⟨hf, ?_⟩
      rcases needInit_cases (fun t => respond .enc .ok (BitVec.ofNat 32 (32 * t.N + 1)) (loadFrame t)) s with
        ⟨hi, he⟩ | ⟨-, he⟩ <;> rw [he]
      · exact .encoded _ hb hi
      · exact .faulted _ hb
  | cfg p c k =>
    obtain ⟨hf, ⟨hb, rfl⟩ | ⟨hb, rfl⟩⟩ := accept_next h
    · exact ⟨hf, .held hb⟩
    · exact ⟨hf, .configured _ p c k hb⟩
  | tx =>
    obtain ⟨hf, ⟨hb, rfl⟩ | ⟨hb, rfl⟩⟩ := accept_next h
    · exact ⟨hf, .held hb⟩
    · refine ⟨hf, ?_⟩
      unfold needInit
      split
      · next hi =>
        unfold needFrame
        split
        · next hv => exact .sent .tx hb hi hv
        · exact .faulted _ hb
      · exact .faulted _ hb
  | begin n =>
    obtain ⟨hf, ⟨hb, rfl⟩ | ⟨hb, rfl⟩⟩ := accept_next h
    · exact ⟨hf, .held hb⟩
    · refine ⟨hf, ?_⟩
      rcases needFresh_cases n (fun t => configureTransport (.begin n) Config.pin Config.channel beginDivisor
        (createBuffer n t)) s with ⟨hi, hn, he⟩ | ⟨r, he⟩ <;> rw [he]
      · exact .begun n _ _ _ hb hi hn
      · exact .faulted _ hb
  | update =>
    obtain ⟨hf, ⟨hb, rfl⟩ | ⟨hb, rfl⟩⟩ := accept_next h
    · exact ⟨hf, .held hb⟩
    · refine ⟨hf, ?_⟩
      rcases needInit_cases (fun t => transmitFrame .update (loadFrame t)) s with ⟨hi, he⟩ | ⟨-, he⟩ <;> rw [he]
      · exact .encodedSent .update hb hi
      · exact .faulted _ hb
  | reserved0 a d => exact effect_of_illegalOpcode h
  | reservedB a d => exact effect_of_illegalOpcode h
  | reservedC a d => exact effect_of_illegalOpcode h
  | reservedD a d => exact effect_of_illegalOpcode h
  | reservedE a d => exact effect_of_illegalOpcode h
  | reservedF a d => exact effect_of_illegalOpcode h
  | t0 => exact effect_of_takeItem h
  | t1 => exact effect_of_takeItem h
  | trst => exact effect_of_takeItem h

/-- The item a symbol row stands for is the one it was fetched from. -/
theorem exec_symbolOf {it : Item} {i : Instr} (h : symbolOf it = some i) (s : State) : exec i s = takeItem it s := by
  unfold symbolOf at h
  split_ifs at h with h0 h1 h2 <;> cases h <;> subst it <;> rfl

/-- What one step can do: wait for the client, perform the next command word, or a turn of the peripheral. -/
inductive Turn (s : State) : State → Prop
  | idle (free : s.busy = false) (none : s.env.program = []) : Turn s s
  | performed (w : BitVec 68) (rest : List (BitVec 68)) (t : State) (free : s.busy = false)
      (port : s.env.program = w :: rest) (run : exec (decodeCommand w) (popWord s) = .next t) : Turn s t
  | waited (busy : s.busy = true) (move : s.env.next.move = .wait) : Turn s (redraw s)
  | failed (busy : s.busy = true) (move : s.env.next.move = .fail) : Turn s (completeTransmission .error s)
  | ended (busy : s.busy = true) (move : s.env.next.move = .go) (all : s.IS[s.pos]? = none) :
      Turn s (completeTransmission .ok s)
  | emitted (it : Item) (busy : s.busy = true) (move : s.env.next.move = .go) (item : s.IS[s.pos]? = some it) :
      Turn s (emitItem it s)

/-- Every next state of `step` is one of the turns, from a state without a fault. -/
theorem step_turn {s t : State} (h : step s = .next t) : s.fault = none ∧ Turn s t := by
  unfold step fetch at h
  cases hf : s.fault with
  | some r => simp [hf] at h
  | none =>
    refine ⟨rfl, ?_⟩
    simp only [hf] at h
    rcases Bool.eq_false_or_eq_true s.busy with hb | hb
    · simp only [if_pos hb, fetchItem] at h
      cases hm : s.env.next.move with
      | wait =>
        simp only [hm, Host.Outcome.next.injEq] at h
        exact h ▸ .waited hb hm
      | fail =>
        simp only [hm, Host.Outcome.next.injEq] at h
        exact h ▸ .failed hb hm
      | go =>
        simp only [hm] at h
        cases hi : s.IS[s.pos]? with
        | none =>
          simp only [hi, Host.Outcome.next.injEq] at h
          exact h ▸ .ended hb hm hi
        | some it =>
          simp only [hi] at h
          cases hs : symbolOf it with
          | none =>
            simp only [hs, Host.Outcome.next.injEq] at h
            exact h ▸ .emitted it hb hm hi
          | some i =>
            simp only [hs, exec_symbolOf hs] at h
            obtain ⟨-, -, -, rfl⟩ := takeItem_next h
            exact .emitted it hb hm hi
    · simp only [hb, fetchCommand, Bool.false_eq_true, if_false] at h
      cases hp : s.env.program with
      | nil =>
        simp only [hp, Host.Outcome.next.injEq] at h
        exact h ▸ .idle hb hp
      | cons w rest =>
        simp only [hp] at h
        exact .performed w rest t hb hp h

/-- On any machine a run of `k + 1` steps that answers a next state is a step and a run of `k`. -/
theorem coreRun_succ {M : Host.Core} {k : Nat} {s t : M.State} (h : M.run (k + 1) s = .next t) :
    ∃ u, M.step s = .next u ∧ M.run k u = .next t := by
  rw [Host.Core.run.eq_def] at h
  cases hs : M.step s with
  | next u => simp only [hs] at h; exact ⟨u, rfl, h⟩
  | fault r => simp [hs] at h
  | refused r => simp [hs] at h

/-- A run of `k + 1` steps of this machine that answers a next state is a step and a run of `k`. -/
theorem run_succ {k : Nat} {s t : State} (h : Sys2Proof.core.run (k + 1) s = .next t) :
    ∃ u, step s = .next u ∧ Sys2Proof.core.run k u = .next t :=
  coreRun_succ (M := Sys2Proof.core) h

end Sys2Proof.Machine
end

