-- ==== Sys2Proof/Machine/Assembly.lean ====
section
/-! DEFINITION. The assembler syntax of R62 with the aliases of R63: lines of text to command words, and the loading of a
program into the client. No rule of the block depends on it. -/

namespace Sys2Proof.Machine

/-- A token of a line. -/
inductive Token where
  | name (cs : List Char)
  | decimal (n : Nat)
  | hexadecimal (n : Nat)
  | minus
  | comma
  | opening
  | closing
deriving DecidableEq, Repr

/-- The value of a digit, decimal or hexadecimal. -/
def digitValue (c : Char) : Option Nat :=
  if '0' ≤ c ∧ c ≤ '9' then some (c.toNat - 48)
  else if 'a' ≤ c ∧ c ≤ 'f' then some (c.toNat - 87)
  else if 'A' ≤ c ∧ c ≤ 'F' then some (c.toNat - 55)
  else none

/-- The number of these digits in this base, after the digits read so far. -/
def readDigits (base acc : Nat) : List Char → Option Nat
  | [] => some acc
  | c :: cs =>
    match digitValue c with
    | some v => if v < base then readDigits base (base * acc + v) cs else none
    | none => none

/-- The token of a run of letters and digits: `0x` and hexadecimal digits, decimal digits, or a name. -/
def wordToken : List Char → Option Token
  | [] => none
  | '0' :: 'x' :: c :: cs => (readDigits 16 0 (c :: cs)).map .hexadecimal
  | c :: cs => if c.isDigit then (readDigits 10 0 (c :: cs)).map .decimal else some (.name (c :: cs))

/-- The tokens before `ts` with the pending run of letters and digits, if there is one, put first. -/
def withRun (run : List Char) (ts : Option (List Token)) : Option (List Token) :=
  match run with
  | [] => ts
  | c :: cs =>
    match wordToken (c :: cs), ts with
    | some t, some rest => some (t :: rest)
    | _, _ => none

/-- The token of a punctuation character. -/
def punctuation (c : Char) : Option Token :=
  if c = '-' then some .minus
  else if c = ',' then some .comma
  else if c = '(' then some .opening
  else if c = ')' then some .closing
  else none

/-- The tokens of a line without its comment. -/
def tokenize (run : List Char) : List Char → Option (List Token)
  | [] => withRun run (some [])
  | c :: cs =>
    if c.isAlphanum then tokenize (run ++ [c]) cs
    else if c = ' ' ∨ c = '\t' ∨ c = '\r' then withRun run (tokenize [] cs)
    else
      match punctuation c with
      | some t => withRun run ((tokenize [] cs).map (t :: ·))
      | none => none

/-- A line up to its comment, which starts with `--` (R62). -/
def dropComment : List Char → List Char
  | [] => []
  | '-' :: '-' :: _ => []
  | c :: cs => c :: dropComment cs

/-- An unsigned numeral, decimal or hexadecimal (R62). -/
def unsignedToken : Token → Option Nat
  | .decimal n => some n
  | .hexadecimal n => some n
  | .name _ => none
  | .minus => none
  | .comma => none
  | .opening => none
  | .closing => none

/-- An unsigned numeral that fits a field of this many bits. -/
def field (bits : Nat) (t : Token) : Option (BitVec bits) :=
  match unsignedToken t with
  | some n => if n < 2 ^ bits then some (BitVec.ofNat bits n) else none
  | none => none

/-- A signed decimal numeral and the tokens after it (R62). -/
def readIndex : List Token → Option (Int × List Token)
  | .minus :: .decimal n :: rest => some (-(n : Int), rest)
  | .decimal n :: rest => some ((n : Int), rest)
  | _ => none

/-- A Color written `(r, g, b, w)` at the end of a line (R62). -/
def readColor : List Token → Option Color
  | [.opening, r, .comma, g, .comma, b, .comma, w, .closing] =>
    match field 8 r, field 8 g, field 8 b, field 8 w with
    | some r, some g, some b, some w => some ⟨r, g, b, w⟩
    | _, _, _, _ => none
  | _ => none

/-- An index, a comma and a Color. -/
def readIndexColor (ts : List Token) : Option (Int × Color) :=
  match readIndex ts with
  | some (i, .comma :: rest) => (readColor rest).map (fun c => (i, c))
  | _ => none

/-- The instruction of a mnemonic and its operands (R62, R63). -/
def readInstr (name : List Char) (ts : List Token) : Option Instr :=
  if name = ['I', 'N', 'I', 'T'] then
    match ts with
    | [t] => (unsignedToken t).map .init
    | _ => none
  else if name = ['S', 'E', 'T', 'C'] then (readIndexColor ts).map (fun p => .setc p.1 p.2)
  else if name = ['R', 'D', 'P', 'X'] then
    match readIndex ts with
    | some (i, []) => some (.rdpx i)
    | _ => none
  else if name = ['W', 'R', 'P', 'X'] then (readIndexColor ts).map (fun p => .wrpx p.1 p.2)
  else if name = ['C', 'O', 'U', 'N', 'T'] then (if ts = [] then some .count else none)
  else if name = ['E', 'N', 'C'] then (if ts = [] then some .enc else none)
  else if name = ['C', 'F', 'G'] then
    match ts with
    | [p, .comma, ch, .comma, k] =>
      match field 8 p, field 8 ch, field 8 k with
      | some p, some ch, some k => some (.cfg p ch k)
      | _, _, _ => none
    | _ => none
  else if name = ['T', 'X'] then (if ts = [] then some .tx else none)
  else if name = ['B', 'E', 'G', 'I', 'N'] then
    match ts with
    | [t] => (unsignedToken t).map .begin
    | _ => none
  else if name = ['U', 'P', 'D', 'A', 'T', 'E'] then (if ts = [] then some .update else none)
  else if name = ['S', 'E', 'T', 'C', 'V'] then
    match readIndex ts with
    | some (i, [.comma, t]) => (field 32 t).map (fun v => .setcv i v)
    | _ => none
  else if name = ['S', 'E', 'T', 'L', 'E', 'D'] then (readIndexColor ts).map (fun p => .setled p.1 p.2)
  else none

/-- The command word of an instruction that has one. -/
def wordOf (i : Instr) : Option (BitVec 68) :=
  match encode i with
  | .command w => if i.wf then some w else none
  | .item _ => none

/-- The words of one line: none for a line that is empty but for a comment, one for a command; `none` for text that is
neither. -/
def assembleLine (line : List Char) : Option (List (BitVec 68)) :=
  match tokenize [] (dropComment line) with
  | some [] => some []
  | some (.name cs :: ts) =>
    match readInstr cs ts with
    | some i => (wordOf i).map (fun w => [w])
    | none => none
  | _ => none

/-- The words of a program, one command a line, in order (R62). -/
def assemble : List (List Char) → Option (List (BitVec 68))
  | [] => some []
  | line :: lines =>
    match assembleLine line, assemble lines with
    | some ws, some rest => some (ws ++ rest)
    | _, _ => none

/-- A program given to the client of a block (R140, R171; log 1): its words are presented one after the other. -/
def State.withProgram (s : State) (words : List (BitVec 68)) : State :=
  { s with env := { s.env with program := words } }

end Sys2Proof.Machine
end

