-- ==== Sys2Proof/Tests/Slice0.lean ====
section
/-! SUPPORT. Tests: expected results come from spec/95_test_vectors.md and the examples of the rules; the last part shows,
for each statement with hypotheses, that something meets them. -/

namespace Sys2Proof.Tests

open Sys2Proof Sys2Proof.Machine Sys2Proof.Claims

/-! ## Small states -/

/-- A draw with these answers, this move, no idle tick, and one high tick in a failed transmission. -/
def draw (c i : Config.Answer) (m : Config.Move) : Config.Draw := ⟨c, i, m, 0, [.H]⟩

/-- The state after reset with this draw to take. -/
def fresh (d : Config.Draw) : State := { State.reset with env := { State.reset.env with next := d } }

/-- `n` pixels of which entry 1 is `(0x12, 0x34, 0x56, 0x78)` when there is one, and a configured transport. -/
def live (n : Nat) : State :=
  { fresh (draw .ok .ok .go) with
    init := true, N := n, PB := if 1 < n then [(1, ⟨0x12, 0x34, 0x56, 0x78⟩)] else [], CFGR := ⟨18, 0, 2⟩,
    ready := true, env := { (fresh (draw .ok .ok .go)).env with lineHeld := true, line := [.L] } }

/-- An empty buffer, its frame in the item store. -/
def framed : State := { live 0 with IS := [symTRST], isValid := true }

/-- A transmission of the empty buffer's frame in flight, `k` items taken. -/
def sending (c : Caller) (m : Config.Move) (k : Nat) : State :=
  { framed with
    busy := true, pos := k,
    env := { framed.env with next := draw .ok .ok m, caller := c, emitted := [symTRST].take k } }

/-- The outcome is a next state with this property. -/
def nextHas (o : Host.Outcome State Fault Refusal) (p : State → Bool) : Bool :=
  match o with
  | .next t => p t
  | .fault _ => false
  | .refused _ => false

/-- The instruction the next step performs, if it performs one. -/
def fetched (s : State) : Option Instr :=
  match fetch s with
  | .perform i _ => some i
  | .moved _ => none

/-- The last entry of the event history is this response. -/
def answered (i : Instr) (st : Status) (d : BitVec 32) (t : State) : Bool :=
  decide (t.env.events.getLast? = some (.response i ⟨st, d⟩))

/-! ## WellFormed: an ill-formed term for each check -/

theorem test_count_too_large : (Instr.init (2 ^ 32)).wf = false ∧ (Instr.begin (2 ^ 32)).wf = false := by decide

theorem test_index_too_large :
    (Instr.setc (2 ^ 31) ⟨0, 0, 0, 0⟩).wf = false ∧ (Instr.rdpx (2 ^ 31)).wf = false ∧
    (Instr.wrpx (2 ^ 31) ⟨0, 0, 0, 0⟩).wf = false ∧ (Instr.setcv (2 ^ 31) 0).wf = false ∧
    (Instr.setled (2 ^ 31) ⟨0, 0, 0, 0⟩).wf = false := by decide

theorem test_index_too_small :
    (Instr.setc (-(2 ^ 31) - 1) ⟨0, 0, 0, 0⟩).wf = false ∧ (Instr.rdpx (-(2 ^ 31) - 1)).wf = false := by decide

/-! ## Decoder and encoder: words written out from R52, R55 to R57, R59 -/

/-- INIT 3 (R65), `op` 0001 in 67:64, `a` 3 in 63:32. -/
theorem test_decode_init : decodeTableWord 68 0x10000000300000000 = some (.init 3) := by decide

/-- SETC -1 (V7): the index is signed. -/
theorem test_decode_setc : decodeTableWord 68 0x2FFFFFFFF04040404 = some (.setc (-1) ⟨4, 4, 4, 4⟩) := by decide

theorem test_decode_rdpx : decodeTableWord 68 0x37FFFFFFF00000000 = some (.rdpx 2147483647) := by decide

theorem test_decode_wrpx : decodeTableWord 68 0x400000000FF000000 = some (.wrpx 0 ⟨0xFF, 0, 0, 0⟩) := by decide

/-- COUNT with bits in its unused fields (R58). -/
theorem test_decode_count : decodeTableWord 68 0x5FFFFFFFFFFFFFFFF = some .count := by decide

theorem test_decode_enc : decodeTableWord 68 0x60000000000000000 = some .enc := by decide

/-- CFG 18, 0, 2 (R105), with bits in the unused `d[31:24]`. -/
theorem test_decode_cfg : decodeTableWord 68 0x700000000FF120002 = some (.cfg 18 0 2) := by decide

theorem test_decode_tx : decodeTableWord 68 0x80000000000000000 = some .tx := by decide

theorem test_decode_begin : decodeTableWord 68 0x9FFFFFFFF00000000 = some (.begin 4294967295) := by decide

theorem test_decode_update : decodeTableWord 68 0xA0000000000000000 = some .update := by decide

/-- The six reserved opcodes (R59). -/
theorem test_decode_reserved :
    decodeTableWord 68 0x00000000100000002 = some (.reserved0 1 2) ∧
    decodeTableWord 68 0xB0000000100000002 = some (.reservedB 1 2) ∧
    decodeTableWord 68 0xC0000000100000002 = some (.reservedC 1 2) ∧
    decodeTableWord 68 0xD0000000100000002 = some (.reservedD 1 2) ∧
    decodeTableWord 68 0xE0000000100000002 = some (.reservedE 1 2) ∧
    decodeTableWord 68 0xF123456789ABCDEF0 = some (.reservedF 0x12345678 0x9ABCDEF0) := by decide

/-- The alias words are SETC's (R63). -/
theorem test_decode_aliases :
    encode (.setcv 1 0x12345678) = .command 0x20000000112345678 ∧
    encode (.setled 1 ⟨0x12, 0x34, 0x56, 0x78⟩) = .command 0x20000000112345678 ∧
    decodeTableWord 68 0x20000000112345678 = some (.setc 1 ⟨0x12, 0x34, 0x56, 0x78⟩) := by decide

/-- The packed symbols of R52; a word that is none of them names no row, and a number too wide for its word decodes to
nothing. -/
theorem test_decode_symbols :
    decodeTableWord 32 0x002D800F = some .t0 ∧ decodeTableWord 32 0x001E801E = some .t1 ∧
    decodeTableWord 32 0x000007D0 = some .trst ∧ decodeTableWord 32 0x000007D1 = none ∧
    decodeTableWord 32 0x100000000 = none ∧ decodeTableWord 68 0x100000000000000000 = none := by decide

/-- Encoding as R56 and R57 lay the fields out. -/
theorem test_encode_words :
    encode (.init 3) = .command 0x10000000300000000 ∧
    encode (.setc (-2147483648) ⟨5, 5, 5, 5⟩) = .command 0x28000000005050505 ∧
    encode (.rdpx 1) = .command 0x30000000100000000 ∧
    encode (.wrpx 3 ⟨8, 8, 8, 8⟩) = .command 0x40000000308080808 ∧
    encode (.cfg 5 1 2) = .command 0x70000000000050102 ∧
    encode (.begin 1) = .command 0x90000000100000000 ∧
    encode .trst = .item 0x000007D0 := by decide

/-- Every row's word, placed by `withFetchWord`, is what the very next step after reset performs. -/
theorem test_rows_fetched :
    fetched (State.reset.withFetchWord 68 0x10000000000000000) = some (.init 0) ∧
    fetched (State.reset.withFetchWord 68 0x20000000000000000) = some (.setc 0 Color.zero) ∧
    fetched (State.reset.withFetchWord 68 0x30000000000000000) = some (.rdpx 0) ∧
    fetched (State.reset.withFetchWord 68 0x40000000000000000) = some (.wrpx 0 Color.zero) ∧
    fetched (State.reset.withFetchWord 72 0x50000000000000000) = some .count ∧
    fetched (State.reset.withFetchWord 72 0x60000000000000000) = some .enc ∧
    fetched (State.reset.withFetchWord 72 0x70000000000000000) = some (.cfg 0 0 0) ∧
    fetched (State.reset.withFetchWord 72 0x80000000000000000) = some .tx ∧
    fetched (State.reset.withFetchWord 72 0x90000000000000000) = some (.begin 0) ∧
    fetched (State.reset.withFetchWord 72 0xA0000000000000000) = some .update ∧
    fetched (State.reset.withFetchWord 72 0x0) = some (.reserved0 0 0) ∧
    fetched (State.reset.withFetchWord 72 0xB0000000000000000) = some (.reservedB 0 0) ∧
    fetched (State.reset.withFetchWord 72 0xC0000000000000000) = some (.reservedC 0 0) ∧
    fetched (State.reset.withFetchWord 72 0xD0000000000000000) = some (.reservedD 0 0) ∧
    fetched (State.reset.withFetchWord 72 0xE0000000000000000) = some (.reservedE 0 0) ∧
    fetched (State.reset.withFetchWord 72 0xF0000000000000000) = some (.reservedF 0 0) ∧
    fetched (State.reset.withFetchWord 32 0x002D800F) = some .t0 ∧
    fetched (State.reset.withFetchWord 32 0x001E801E) = some .t1 ∧
    fetched (State.reset.withFetchWord 32 0x000007D0) = some .trst := by decide

/-- A placed command runs: CFG is legal as the first command (R151). -/
theorem test_first_step_runs :
    nextHas (step (State.reset.withFetchWord 68 0x70000000000120002)) (fun t => decide (t.CFGR = ⟨18, 0, 2⟩)) = true ∧
    nextHas (step (State.reset.withFetchWord 32 0x001E801E)) (fun t => decide (t.env.emitted = [⟨.H, 30, .L, 30⟩])) = true := by
  refine ⟨?_, by decide⟩
  show nextHas (.next (configureTransport (.cfg 18 0 2) 18 0 2 _)) _ = true
  simp [nextHas, (configureTransport_spec _ _ _ _ _).CFGR_eq]

/-! ## The commands: the vectors V7, V8, V9, V10 -/

/-- V8, `INIT 0` from reset. -/
theorem test_init_empty :
    exec (.init 0) (fresh (draw .ok .ok .go)) =
      .next { delivered (fresh (draw .ok .ok .go)) (.init 0) .ok 0 with init := true, N := 0, PB := [] } := by
  simp [exec, execInit, accept, needFresh, fresh, State.reset, delivered, createBuffer, respond, record]

/-- V8, `INIT 2` on a block that has its buffer. -/
theorem test_init_again : nextHas (exec (.init 2) (live 2)) (fun t => decide (t.fault = some .reinit) && decide (t.N = 2)) = true := by
  decide

/-- V7, `SETC 2` with `N = 3`: the last legal index; `SETC 3`: index = N. -/
theorem test_setc :
    nextHas (exec (.setc 2 ⟨2, 2, 2, 2⟩) (live 3)) (fun t =>
      decide (pixels t = [Color.zero, ⟨0x12, 0x34, 0x56, 0x78⟩, ⟨2, 2, 2, 2⟩])) = true ∧
    nextHas (exec (.setc 3 ⟨3, 3, 3, 3⟩) (live 3)) (fun t =>
      decide (t.PB = (live 3).PB) && answered (.setc 3 ⟨3, 3, 3, 3⟩) .ok 0 t) = true := by decide

/-- V7, the most negative index; and a write of ZERO leaves the canonical form (log 7). -/
theorem test_setc_silent :
    nextHas (exec (.setc (-2147483648) ⟨5, 5, 5, 5⟩) (live 3)) (fun t => decide (t.PB = (live 3).PB)) = true ∧
    nextHas (exec (.setc 1 Color.zero) (live 3)) (fun t => decide (t.PB = [])) = true := by decide

/-- R67's example, and V7's read at `index = N`. -/
theorem test_rdpx :
    nextHas (exec (.rdpx 1) (live 3)) (answered (.rdpx 1) .ok 0x12345678) = true ∧
    nextHas (exec (.rdpx 3) (live 3)) (fun t => decide (t.fault = some .boundsRead) && decide (t.env.events = [])) = true := by
  decide

/-- V7, `WRPX 1`. -/
theorem test_wrpx :
    nextHas (exec (.wrpx 1 ⟨7, 7, 7, 7⟩) (live 3)) (fun t => decide (pixels t = [Color.zero, ⟨7, 7, 7, 7⟩, Color.zero])) = true := by
  decide

theorem test_setcv_setled :
    nextHas (exec (.setcv 0 0x12345678) (live 1)) (fun t => decide (pixels t = [⟨0x12, 0x34, 0x56, 0x78⟩])) = true ∧
    nextHas (exec (.setled 0 ⟨1, 2, 3, 4⟩) (live 1)) (fun t => decide (pixels t = [⟨1, 2, 3, 4⟩])) = true := by decide

/-- V7, `COUNT`; V8, `COUNT` as first command. -/
theorem test_count :
    nextHas (exec .count (live 3)) (answered .count .ok 3) = true ∧
    nextHas (exec .count (fresh (draw .ok .ok .go))) (fun t => decide (t.fault = some .uninit)) = true := by decide

/-- R88's example shape with V6: the empty buffer's frame is the reset item, the response is 1. -/
theorem test_enc_empty :
    nextHas (exec .enc (live 0)) (fun t => decide (t.IS = [⟨.L, 2000, .L, 0⟩]) && t.isValid && answered .enc .ok 1 t) = true := by
  decide

/-- V9, the third row: configure ok, install error; the line is not held yet (R24). -/
theorem test_cfg_install_error :
    nextHas (exec (.cfg 18 0 2) (fresh (draw .ok .error .go))) (fun t =>
      decide (t.ready = false) && decide (t.CFGR = ⟨18, 0, 2⟩) && answered (.cfg 18 0 2) .errConfig 0 t && decide (t.env.lineHeld = false)) = true := by decide

/-- V9, the fourth row: a failed reconfiguration clears `ready`, and install is not called. -/
theorem test_cfg_reconfigure :
    nextHas (exec (.cfg 5 1 2) { live 1 with env := { (live 1).env with next := draw .error .ok .go } }) (fun t =>
      decide (t.ready = false) && decide (t.CFGR = ⟨5, 1, 2⟩) && decide (t.env.events =
        [.configure 5 1 2 .L false false true .error, .response (.cfg 5 1 2) ⟨.errConfig, 0⟩])) = true := by decide

/-- V9: TX hands `[TRST]` over on channel 0; TX without a frame. -/
theorem test_tx :
    nextHas (exec .tx framed) (fun t =>
      t.busy && decide (t.pos = 0) && decide (t.env.events = [.transmit 0 [⟨.L, 2000, .L, 0⟩] true])) = true ∧
    nextHas (exec .tx (live 0)) (fun t => decide (t.fault = some .noFrame)) = true := by decide

/-- V9: TX with `ready = false` after ENC. -/
theorem test_tx_unconfigured :
    nextHas (exec .tx { framed with ready := false }) (fun t =>
      decide (t.isValid = false) && decide (t.env.events = [.response .tx ⟨.errTransmit, 0⟩])) = true := by decide

/-- V9: the transmission of the empty frame, completed with ok: 2000 low ticks. -/
theorem test_completion :
    nextHas (step (sending .tx .go 1)) (fun t =>
      decide (t.busy = false) && decide (t.isValid = false) && t.ready && answered .tx .ok 0 t) = true ∧
    nextHas (step (sending .tx .fail 0)) (fun t =>
      t.ready && answered .tx .errTransmit 0 t && decide (t.env.line.getLast? = some .L)) = true := by decide

/-- V10: `BEGIN 0` with configure ok; V8: BEGIN on a block that has its buffer makes no call. -/
theorem test_begin :
    (∃ t, exec (.begin 0) (fresh (draw .ok .ok .go)) = .next t ∧ t.init = true ∧ t.N = 0 ∧ t.ready = true) ∧
    nextHas (exec (.begin 2) (live 2)) (fun t => decide (t.fault = some .reinit) && decide (t.env.events = [])) = true := by
  refine ⟨⟨configureTransport (.begin 0) Config.pin Config.channel beginDivisor
      (createBuffer 0 (fresh (draw .ok .ok .go))), ?_, ?_, ?_, ?_⟩, by decide⟩
  · simp [exec, execBegin, accept, needFresh, fresh, State.reset]
  · rw [(configureTransport_spec _ _ _ _ _).init_eq]; rfl
  · rw [(configureTransport_spec _ _ _ _ _).N_eq]; rfl
  · rw [(configureTransport_spec _ _ _ _ _).ready_eq]; rfl

/-- V10: UPDATE on a configured block, and after INIT only. -/
theorem test_update :
    nextHas (exec .update (live 1)) (fun t =>
      decide (t.env.events = [.transmit 0 (List.replicate 32 ⟨.H, 15, .L, 45⟩ ++ [⟨.L, 2000, .L, 0⟩]) true])) = true ∧
    nextHas (exec .update { live 1 with ready := false }) (fun t =>
      decide (t.isValid = false) && decide (t.env.events = [.response .update ⟨.errTransmit, 0⟩])) = true := by decide

/-- V8: the reserved opcodes, before INIT. -/
theorem test_reserved :
    nextHas (exec (.reserved0 0 0) (fresh (draw .ok .ok .go))) (fun t => decide (t.fault = some .illegalOp)) = true ∧
    nextHas (exec (.reservedF 0x12345678 0x9ABCDEF0) (live 1)) (fun t => decide (t.fault = some .illegalOp)) = true := by
  decide

/-- R96: the symbol goes out, `pos` advances; no symbol is performed outside a transmission. -/
theorem test_symbols :
    nextHas (exec .trst (sending .tx .go 0)) (fun t => decide (t.pos = 1) && decide (t.env.emitted = [⟨.L, 2000, .L, 0⟩])) = true ∧
    exec .t0 framed = .refused .noItemStep ∧ exec .t1 (sending .tx .go 1) = .refused .noItemStep :=
  ⟨by decide, rfl, rfl⟩

/-! ## The encoder and the waveform: V2, V3, V5 -/

/-- V2: `(0x80, 0, 0, 0)`, red bit 7: the only T1 is item 8. -/
theorem test_corner_bit :
    encPixel ⟨0x80, 0, 0, 0⟩ = List.replicate 8 symT0 ++ [symT1] ++ List.replicate 23 symT0 := by decide

/-- V3: wire word and bit string of a mixed pixel. -/
theorem test_mixed_pixel :
    wireWord ⟨0x12, 0x34, 0x56, 0x78⟩ = 0x34125678 ∧
    (encPixel ⟨0x12, 0x34, 0x56, 0x78⟩).map bitOf =
      [false, false, true, true, false, true, false, false] ++ [false, false, false, true, false, false, true, false] ++
      [false, true, false, true, false, true, true, false] ++ [false, true, true, true, true, false, false, false] := by
  decide

/-- V5: the wire words, and the second pixel's first data bits. -/
theorem test_two_pixels :
    wireWord ⟨1, 2, 3, 4⟩ = 0x02010304 ∧ wireWord ⟨0xAA, 0x55, 0xF0, 0x0F⟩ = 0x55AAF00F ∧
    (encodeFrame [⟨1, 2, 3, 4⟩, ⟨0xAA, 0x55, 0xF0, 0x0F⟩])[6]? = some symT1 ∧
    (encodeFrame [⟨1, 2, 3, 4⟩, ⟨0xAA, 0x55, 0xF0, 0x0F⟩])[33]? = some symT1 ∧
    (encodeFrame [⟨1, 2, 3, 4⟩, ⟨0xAA, 0x55, 0xF0, 0x0F⟩])[64]? = some symTRST := by decide

/-! ## The assembler: P1, V7, V9 -/

/-- P1's three lines, with a comment. -/
theorem test_assemble_program :
    assemble ["BEGIN  1            -- 9:00000001:00000000".toList, "SETC   0, (0x00, 0x01, 0x00, 0x00)".toList,
      "".toList, "UPDATE".toList] = some [0x90000000100000000, 0x20000000000010000, 0xA0000000000000000] := by decide

/-- V7's negative index, V9's configuration, an alias (R63), and a channel that is no byte. -/
theorem test_assemble_lines :
    assembleLine "SETC -1, (4, 4, 4, 4)".toList = some [0x2FFFFFFFF04040404] ∧
    assembleLine "CFG    18, 0, 2".toList = some [0x70000000000120002] ∧
    assembleLine "SETCV 1, 0x12345678".toList = some [0x20000000112345678] ∧
    assembleLine "SETC 0, (256, 0, 0, 0)".toList = none := by decide

/-! ## The hypotheses of the statements can be met: one witness for each statement that has any -/

/-- DecodeEncodeAgree, at the largest and smallest operands of the fields. -/
theorem witness_DecodeEncodeAgree :
    (Instr.init (2 ^ 32 - 1)).wf = true ∧ (Instr.begin (2 ^ 32 - 1)).wf = true ∧
    (Instr.setc (2 ^ 31 - 1) ⟨1, 2, 3, 4⟩).wf = true ∧ (Instr.rdpx (-(2 ^ 31))).wf = true ∧
    (Instr.cfg 18 0 2).wf = true ∧ Instr.trst.wf = true := by decide

/-- UnusedFieldsIgnored: two words that differ in an unused field only. -/
theorem witness_UnusedFieldsIgnored :
    commandWord 0x5 1 2 ≠ commandWord 0x5 3 4 ∧ commandWord 0x9 1 2 ≠ commandWord 0x9 1 3 ∧
    ((0xFF120002 : BitVec 32).extractLsb' 0 24 = (0x00120002 : BitVec 32).extractLsb' 0 24 ∧
      commandWord 0x7 0 0xFF120002 ≠ commandWord 0x7 1 0x00120002) := by decide

/-- ItemPacking, at the longest duration. -/
theorem witness_ItemPacking :
    (⟨.H, 32767, .H, 32767⟩ : Item).duration0 ≤ 32767 ∧ (⟨.H, 32767, .H, 32767⟩ : Item).duration1 ≤ 32767 := by decide

/-- SymbolTable: two bit strings with the same symbols, and an item of a frame. -/
theorem witness_SymbolTable : [true, false].map sym = [true, false].map sym ∧ symTRST ∈ encodeFrame [] :=
  ⟨rfl, by decide⟩

/-- WireWordOrder: the first and the last bit of the wire word. -/
theorem witness_WireWordOrder : (0 : Nat) ≤ 31 ∧ (31 : Nat) ≤ 31 := by decide

/-- FrameOfBuffer, FrameIndexed: the last data position of two pixels. -/
theorem witness_FrameOfBuffer_FrameIndexed : 63 < 32 * [Color.zero, ⟨1, 2, 3, 4⟩].length := by decide

/-- FrameInjectiveAndLocal: equal frames, and a position outside the pixel that is changed. -/
theorem witness_FrameInjectiveAndLocal :
    encodeFrame [⟨1, 2, 3, 4⟩] = encodeFrame [⟨1, 2, 3, 4⟩] ∧ 31 / 32 ≠ 1 ∧ 32 / 32 ≠ 0 := by
  refine ⟨rfl, by decide, by decide⟩

/-- CellStructure: the last tick of the last cell and of the reset pulse. -/
theorem witness_CellStructure : 31 < 32 * [Color.zero].length ∧ 59 < 60 ∧ 1999 < 2000 := by decide

/-- InitCreatesBuffer, BeginCreatesAndConfigures, BeginIsInitThenCfg, FirstCommandRule: a block with its buffer, a count
above every NMAX, a count within every NMAX. -/
theorem witness_InitCreatesBuffer :
    ((live 2).accepting ∧ (live 2).init = true) ∧
    ((fresh (draw .ok .ok .go)).accepting ∧ (fresh (draw .ok .ok .go)).init = false ∧ Config.nmax < 134217728) ∧
    ((fresh (draw .ok .ok .go)).accepting ∧ (fresh (draw .ok .ok .go)).init = false ∧ 0 ≤ Config.nmax) :=
  ⟨by decide, ⟨by decide, by decide, Config.countLimit.isLt⟩, ⟨by decide, by decide, Nat.zero_le _⟩⟩

/-- FirstCommandRule: a first word of each kind. -/
theorem witness_FirstCommandRule :
    State.reset.accepting ∧ State.reset.init = false ∧ opField 0x70000000000120002 = 0x7 ∧
    (opField 0x10000000000000000 = 0x1 ∧ (aField 0x10000000000000000).toNat ≤ Config.nmax) ∧
    (opField 0x9FFFFFFFF00000000 = 0x9 ∧ Config.nmax < (aField 0x9FFFFFFFF00000000).toNat) ∧
    0xB ≤ (opField 0xB0000000000000000).toNat ∧ opField 0xA0000000000000000 = 0xA := by
  have h : Config.nmax < 134217728 := Config.countLimit.isLt
  refine ⟨by decide, by decide, by decide, ⟨by decide, ?_⟩, ⟨by decide, ?_⟩, by decide, by decide⟩
  · have : (aField 0x10000000000000000).toNat = 0 := by decide
    omega
  · have : (aField 0x9FFFFFFFF00000000).toNat = 4294967295 := by decide
    omega

/-- RangeTest: negative indices next to and far from 0. -/
theorem witness_RangeTest : (-1 : Int) < 0 ∧ (-2147483648 : Int) < 0 := by decide

/-- SetcAndWrpxWriteOnePixel, AliasesAreSetc, RdpxReadsPixel: before INIT, just outside on both sides, and both ends of the
range. -/
theorem witness_WritesOnePixel :
    ((fresh (draw .ok .ok .go)).accepting ∧ (fresh (draw .ok .ok .go)).init = false) ∧
    ((live 3).accepting ∧ (live 3).init = true ∧ ¬ (0 ≤ (3 : Int) ∧ (3 : Int) < ((live 3).N : Int)) ∧
      ¬ (0 ≤ (-1 : Int) ∧ (-1 : Int) < ((live 3).N : Int))) ∧
    ((0 : Int) < ((live 3).N : Int) ∧ 0 ≤ (2 : Int) ∧ (2 : Int) < ((live 3).N : Int) ∧ Memory.wf (live 3).PB) ∧
    readPixel (live 3).PB (pixelIndex 1) = ⟨0x12, 0x34, 0x56, 0x78⟩ := by decide

/-- CountReturnsLedCount, EncFillsItemStore: before INIT, and an empty buffer, whose count is within every NMAX. -/
theorem witness_CountReturnsLedCount :
    ((fresh (draw .ok .ok .go)).accepting ∧ (fresh (draw .ok .ok .go)).init = false) ∧
    ((live 0).accepting ∧ (live 0).init = true ∧ (live 0).N ≤ Config.nmax) :=
  ⟨by decide, by decide, by decide, Nat.zero_le _⟩

/-- CfgConfiguresTransport: an accepting block. -/
theorem witness_CfgConfiguresTransport : (live 1).accepting ∧ State.reset.accepting := by decide

/-- TxTransmitsFrame: its four cases; CompletesFor: its three moves, for both callers. -/
theorem witness_TxTransmitsFrame :
    ((fresh (draw .ok .ok .go)).accepting ∧ (fresh (draw .ok .ok .go)).init = false) ∧
    ((live 0).accepting ∧ (live 0).init = true ∧ (live 0).isValid = false) ∧
    ({ framed with ready := false : State }.accepting ∧ { framed with ready := false : State }.isValid = true) ∧
    (framed.accepting ∧ framed.init = true ∧ framed.isValid = true ∧ framed.ready = true) := by decide

theorem witness_CompletesFor :
    ((sending .tx .wait 0).fault = none ∧ (sending .tx .wait 0).busy = true ∧ (sending .tx .wait 0).env.caller = .tx ∧
      (sending .tx .wait 0).env.next.move = .wait) ∧
    ((sending .update .fail 0).env.caller = .update ∧ (sending .update .fail 0).env.next.move = .fail) ∧
    ((sending .update .go 1).env.next.move = .go ∧ (sending .update .go 1).pos = (sending .update .go 1).IS.length) := by
  decide

/-- UpdateEncodesAndTransmits, UpdateIsEncThenTx: unconfigured and configured. -/
theorem witness_UpdateEncodesAndTransmits :
    ({ live 1 with ready := false : State }.accepting ∧ { live 1 with ready := false : State }.init = true) ∧
    ((live 1).accepting ∧ (live 1).init = true ∧ (live 1).ready = true) := by decide

/-- ReservedOpcodesFault: before INIT and after. -/
theorem witness_ReservedOpcodesFault : State.reset.accepting ∧ (live 1).accepting := by decide

/-- GeneratorEmitsItem, SymbolsAreGeneratorSteps: an item left and about to be taken, none left, and no transmission. -/
theorem witness_GeneratorEmitsItem_step :
    (sending .tx .wait 1).busy = true ∧ (sending .tx .wait 1).IS.length ≤ (sending .tx .wait 1).pos ∧
    ∃ t, step (sending .tx .wait 1) = .next t :=
  ⟨rfl, by decide, _, rfl⟩

theorem witness_GeneratorEmitsItem :
    ((sending .tx .go 0).fault = none ∧ (sending .tx .go 0).busy = true ∧
      (sending .tx .go 0).pos < (sending .tx .go 0).IS.length ∧ (sending .tx .go 0).env.next.move = .go ∧
      (sending .tx .go 0).IS[(sending .tx .go 0).pos]? = some symTRST) ∧
    ((sending .tx .go 1).fault = none ∧ (sending .tx .go 1).IS.length ≤ (sending .tx .go 1).pos) ∧
    (framed.fault = none ∧ framed.busy = false) := by decide

/-- FaultsAreStickyAndClean, FaultedBlockStopsByName: a fault is taken, and a faulted block. -/
theorem witness_FaultsAreStickyAndClean :
    (∃ t, exec .count State.reset = .next t ∧ t.fault = some .uninit) ∧
    { live 1 with fault := some FaultReason.noFrame : State }.fault = some .noFrame :=
  ⟨⟨raiseFault .uninit State.reset, rfl, rfl⟩, rfl⟩

/-- ChecksDecideOutcome: a faulted block, a held command, a command with a fault, one answered at once, one that hands a frame over. -/
theorem witness_ChecksDecideOutcome :
    { live 1 with fault := some FaultReason.noFrame : State }.fault ≠ none ∧
    (Instr.count.opcode ≠ none ∧ (sending .tx .go 0).fault = none ∧ (sending .tx .go 0).busy = true) ∧
    (State.reset.accepting ∧ firstFault .count State.reset = some .uninit) ∧
    ((live 1).accepting ∧ firstFault .count (live 1) = none ∧ statusAtOnce .count (live 1) = some .ok) ∧
    (framed.accepting ∧ firstFault .tx framed = none ∧ statusAtOnce .tx framed = none) ∧
    ((live 1).accepting ∧ (live 1).init = true ∧ nextHas (exec .update (live 1)) (fun _ => true) = true) ∧
    ((fresh (draw .error .ok .go)).accepting ∧ (fresh (draw .error .ok .go)).env.next.configure = .error ∧
      nextHas (exec (.cfg 1 2 3) (fresh (draw .error .ok .go))) (fun _ => true) = true) := by decide

/-- BusyHoldsCommands: a completion step with a held word at the port. -/
theorem witness_BusyHoldsCommands :
    ∃ s t : State, s.busy = true ∧ step s = .next t ∧ t.busy = false ∧ s.env.program = [0x50000000000000000] :=
  ⟨{ sending .tx .go 1 with env := { (sending .tx .go 1).env with program := [0x50000000000000000] } }, _, rfl, rfl, rfl, rfl⟩

/-- BusyFreezesBuffer, OnlyCompletionEndsTransmission: a step that stays busy and one that ends the transmission. -/
theorem witness_BusyFreezesBuffer :
    ((sending .tx .go 0).busy = true ∧ ∃ t, step (sending .tx .go 0) = .next t ∧ t.busy = true) ∧
    ((sending .tx .fail 0).busy = true ∧ ∃ t, step (sending .tx .fail 0) = .next t ∧ t.busy = false) :=
  ⟨⟨rfl, _, rfl, rfl⟩, ⟨rfl, _, rfl, rfl⟩⟩

/-- ErrorClasses: each error response is delivered somewhere. -/
theorem witness_ErrorClasses :
    (∃ t, exec (.cfg 1 2 3) (fresh (draw .ok .error .go)) = .next t ∧
      .response (.cfg 1 2 3) ⟨.errConfig, 0⟩ ∈ newEvents (fresh (draw .ok .error .go)) t) ∧
    (∃ t, exec .update { live 1 with ready := false } = .next t ∧
      .response .update ⟨.errTransmit, 0⟩ ∈ newEvents { live 1 with ready := false } t) :=
  ⟨⟨_, rfl, by decide⟩, ⟨_, rfl, by decide⟩⟩

/-- PixelCommandsFrame: each of its commands answers a next state. -/
theorem witness_PixelCommandsFrame :
    (∃ t, exec (.init 0) (live 1) = .next t) ∧ (∃ t, exec (.setc 0 ⟨1, 2, 3, 4⟩) (live 1) = .next t) ∧
    (∃ t, exec (.wrpx 0 ⟨1, 2, 3, 4⟩) (live 1) = .next t) ∧ (∃ t, exec (.setled 0 ⟨1, 2, 3, 4⟩) (live 1) = .next t) ∧
    (∃ t, exec (.setcv 0 1) (live 1) = .next t) ∧ (∃ t, exec (.rdpx 0) (live 1) = .next t) ∧
    (∃ t, exec .count (live 1) = .next t) :=
  ⟨⟨_, rfl⟩, ⟨_, rfl⟩, ⟨_, rfl⟩, ⟨_, rfl⟩, ⟨_, rfl⟩, ⟨_, rfl⟩, ⟨_, rfl⟩⟩

/-- TransportCommandsFrame: CFG and TX answer a next state, and each makes a call; CFG does so on a held line. -/
theorem witness_TransportCommandsFrame :
    ((live 1).env.lineHeld = true ∧ Instr.cfg 1 2 3 ≠ .tx ∧ Instr.cfg 1 2 3 ≠ .update) ∧
    (∃ t e, exec (.cfg 1 2 3) (live 1) = .next t ∧ e ∈ newEvents (live 1) t ∧ isCall e = true) ∧
    (∃ t e, exec .tx framed = .next t ∧ e ∈ newEvents framed t ∧ isCall e = true) :=
  ⟨by decide, ⟨_, .install 2 .ok, rfl, by decide, rfl⟩, ⟨_, .transmit 0 [symTRST] true, rfl, by decide, rfl⟩⟩

/-- FrameIsSnapshot: a command that is neither ENC nor UPDATE, and a configured block. -/
theorem witness_FrameIsSnapshot :
    (∃ t, exec .tx framed = .next t ∧ Instr.tx ≠ .enc ∧ Instr.tx ≠ .update) ∧
    ((live 2).accepting ∧ (live 2).init = true ∧ (live 2).ready = true) :=
  ⟨⟨_, rfl, by decide, by decide⟩, by decide⟩

/-- ReadAfterWrite: the two ends of the range. -/
theorem witness_ReadAfterWrite :
    (live 3).accepting ∧ (live 3).init = true ∧ Memory.wf (live 3).PB ∧ (0 : Int) < ((live 3).N : Int) ∧
    (2 : Int) < ((live 3).N : Int) := by decide

/-- BatchAccess: the last two entries of three, written and read, and the empty range at the end. -/
theorem witness_BatchAccess :
    (live 3).accepting ∧ (live 3).init = true ∧ Memory.wf (live 3).PB ∧
    (memWrite 1 [⟨1, 2, 3, 4⟩, ⟨5, 6, 7, 8⟩] (live 3)).isSome = true ∧ (memWrite 3 [] (live 3)).isSome = true ∧
    memRead 1 2 (live 3) = some [⟨0x12, 0x34, 0x56, 0x78⟩, Color.zero] ∧ memRead 3 0 (live 3) = some [] := by decide

/-- CfgIsIdempotent: a draw with the same two answers and another move. -/
theorem witness_CfgIsIdempotent :
    (live 1).accepting ∧ (∃ u, exec (.cfg 1 2 3) (live 1) = .next u) ∧
    (draw .ok .ok .wait).configure = (live 1).env.next.configure ∧
    (draw .ok .ok .wait).install = (live 1).env.next.install :=
  ⟨by decide, ⟨_, rfl⟩, rfl, rfl⟩

/-- InitFlagRule, LedCountImmutable: a step and an instruction of a block with its buffer, and one without. -/
theorem witness_InitFlagRule :
    (∃ t, exec .count (live 1) = .next t ∧ (live 1).init = true) ∧
    (∃ t, exec (.cfg 1 2 3) State.reset = .next t ∧ State.reset.init = false ∧ State.reset.busy = false) ∧
    (∃ t, step (sending .tx .go 1) = .next t ∧ (sending .tx .go 1).init = true) :=
  ⟨⟨_, rfl, rfl⟩, ⟨_, rfl, rfl, rfl⟩, ⟨_, rfl, rfl⟩⟩

/-- ReadyFlagRule: CFG, BEGIN without a fault, and a command that is neither. -/
theorem witness_ReadyFlagRule :
    (∃ t, (live 1).busy = false ∧ exec (.cfg 1 2 3) (live 1) = .next t) ∧
    (∃ t, exec (.begin 0) (fresh (draw .ok .ok .go)) = .next t ∧ t.fault = none) ∧
    (∃ t, exec .tx framed = .next t ∧ (∀ p c k, Instr.tx ≠ .cfg p c k) ∧ ∀ n, Instr.tx ≠ .begin n) := by
  refine ⟨⟨_, rfl, rfl⟩, ⟨configureTransport (.begin 0) Config.pin Config.channel beginDivisor
      (createBuffer 0 (fresh (draw .ok .ok .go))), ?_, ?_⟩, ⟨_, rfl, by simp, by simp⟩⟩
  · simp [exec, execBegin, accept, needFresh, fresh, State.reset]
  · rw [(configureTransport_spec _ _ _ _ _).fault_eq]; rfl

/-- StepRunsDecoded: a word at the port, an item in flight, and an empty program. -/
theorem witness_StepRunsDecoded :
    ((State.reset.withFetchWord 68 0x50000000000000000).accepting ∧
      (State.reset.withFetchWord 68 0x50000000000000000).env.program = [0x50000000000000000]) ∧
    ((sending .tx .go 0).fault = none ∧ (sending .tx .go 0).busy = true ∧ (sending .tx .go 0).env.next.move = .go ∧
      (sending .tx .go 0).IS[(sending .tx .go 0).pos]? = some (Item.unpack 0x000007D0) ∧
      decode (.item 0x000007D0) = some .trst) ∧
    (State.reset.accepting ∧ State.reset.env.program = []) := by decide

/-- A transmission in flight, every item taken, meets the invariant. -/
theorem sending_inv (c : Caller) (m : Config.Move) (k : Nat) (h : k ≤ 1) : Inv (sending c m k) where
  count_le := fun _ => Nat.zero_le _
  buffer_wf := Memory.wf_nil
  buffer_within := by intro x hx; cases hx
  frame_init := fun _ => rfl
  frame_shape := fun _ => ⟨rfl, rfl, fun j hj => absurd hj (by simp [sending, framed, live])⟩
  busy_valid := fun _ => rfl
  busy_ready := fun _ => rfl
  busy_sound := fun _ => rfl
  busy_pos := fun _ => by simpa [sending, framed, live] using h
  busy_emitted := fun _ => rfl
  ready_held := fun _ => rfl
  held_low := fun _ => rfl

/-- StepKeepsInvariant: a state with the invariant that takes a step. -/
theorem witness_StepKeepsInvariant : Inv (sending .tx .go 0) ∧ ∃ t, step (sending .tx .go 0) = .next t :=
  ⟨sending_inv _ _ _ (by decide), _, rfl⟩

/-- SuccessPutsWaveOnLine: every item taken, the peripheral about to answer ok. -/
theorem witness_SuccessPutsWaveOnLine :
    Inv (sending .tx .go 1) ∧ (sending .tx .go 1).busy = true ∧ (sending .tx .go 1).env.next.move = .go ∧
    (sending .tx .go 1).pos = (sending .tx .go 1).IS.length :=
  ⟨sending_inv _ _ _ (by decide), rfl, rfl, rfl⟩

/-- LineHeldAndHistoryGrows: both answers ok, an ok of configure alone, a count within every NMAX, and a step of a block
whose line is held. -/
theorem witness_LineHeldAndHistoryGrows :
    ((fresh (draw .ok .ok .go)).accepting ∧ bothOk (fresh (draw .ok .ok .go)) = true ∧
      (fresh (draw .ok .ok .go)).init = false ∧ 0 ≤ Config.nmax) ∧
    ((fresh (draw .ok .error .go)).accepting ∧ bothOk (fresh (draw .ok .error .go)) = false) ∧
    (∃ t, step (sending .tx .fail 0) = .next t ∧ (sending .tx .fail 0).env.lineHeld = true) :=
  ⟨⟨by decide, by decide, by decide, Nat.zero_le _⟩, by decide, _, rfl, rfl⟩

/-- HistoriesAreNeverRead: two states that differ in all three, and each outcome. -/
theorem witness_HistoriesAreNeverRead :
    (∃ s r : State, r.toBlock = s.toBlock ∧
      r.env = { s.env with program := r.env.program, events := r.env.events, line := r.env.line } ∧
      r.env.program ≠ s.env.program ∧ r.env.events ≠ s.env.events ∧ r.env.line ≠ s.env.line ∧
      ∃ t, exec .count s = .next t) ∧
    (∃ f, exec .count { live 1 with fault := some .noFrame } = .fault f) ∧ ∃ f, exec .t0 (live 1) = .refused f :=
  ⟨⟨live 1, { live 1 with env := { (live 1).env with program := [0], events := [.complete .ok], line := [.H] } }, rfl, rfl,
    by decide, by decide, by decide, _, rfl⟩, ⟨_, rfl⟩, ⟨_, rfl⟩⟩

/-- StepwiseIsOneShot: a transmission about to end with ok. -/
theorem witness_StepwiseIsOneShot :
    ∃ s t : State, Inv s ∧ s.busy = true ∧ Sys2Proof.core.run 0 s = .next s ∧ s.env.events = s.env.events ∧
      step s = .next t ∧ t.env.events = s.env.events ++ [.complete .ok, .response s.env.caller.instr ⟨.ok, 0⟩] :=
  ⟨sending .update .go 1, completeTransmission .ok (sending .update .go 1), sending_inv _ _ _ (by decide), rfl, rfl, rfl,
    rfl, rfl⟩

end Sys2Proof.Tests
end

section
/-! PROOFS. The pixel buffer as memory (20_memory.md): how the words of SETC, RDPX and WRPX decode, the range test of R31,
and what the three commands do to an accepting block. -/

namespace Sys2Proof.Proofs

open Sys2Proof Sys2Proof.Machine Sys2Proof.Claims

/-! ## The fields of a command word (R56) and the words of the three commands (R57) -/

@[simp] theorem opField_commandWord (op : BitVec 4) (a d : BitVec 32) : opField (commandWord op a d) = op := by
  unfold opField commandWord
  rw [BitVec.extractLsb'_append_eq_of_le (by decide)]
  exact BitVec.extractLsb'_append_eq_left

@[simp] theorem aField_commandWord (op : BitVec 4) (a d : BitVec 32) : aField (commandWord op a d) = a := by
  unfold aField commandWord
  rw [BitVec.extractLsb'_append_eq_of_le (by decide)]
  exact BitVec.extractLsb'_append_eq_right

@[simp] theorem dField_commandWord (op : BitVec 4) (a d : BitVec 32) : dField (commandWord op a d) = d :=
  BitVec.extractLsb'_append_eq_right

theorem decodeCommand_setc (a d : BitVec 32) :
    decodeCommand (commandWord 0x2 a d) = .setc (sext32 a) (Color.unpack d) := by
  simp [decodeCommand]

theorem decodeCommand_rdpx (a d : BitVec 32) : decodeCommand (commandWord 0x3 a d) = .rdpx (sext32 a) := by
  simp [decodeCommand]

theorem decodeCommand_wrpx (a d : BitVec 32) :
    decodeCommand (commandWord 0x4 a d) = .wrpx (sext32 a) (Color.unpack d) := by
  simp [decodeCommand]

/-! ## The range test (R31) -/

theorem sext32_eq_ite (a : BitVec 32) :
    sext32 a = if a.toNat < 2 ^ 31 then (a.toNat : Int) else (a.toNat : Int) - 2 ^ 32 := by
  simp only [sext32, BitVec.toInt_eq_toNat_cond]
  split_ifs <;> omega

theorem inRange_eq_false_iff {n : Nat} {i : Int} : inRange n i = false ↔ ¬ (0 ≤ i ∧ i < (n : Int)) := by
  rw [← inRange_iff, Bool.not_eq_true]

/-- Settles O20: the range test is the exact comparison, so a negative index and an empty buffer fail it. -/
theorem rangeTest : Obligations.RangeTest := by
  unfold Obligations.RangeTest
  refine ⟨sext32_eq_ite, fun a d => ⟨decodeCommand_setc a d, decodeCommand_rdpx a d, decodeCommand_wrpx a d⟩,
    fun _ _ => inRange_iff, fun n i hneg => ?_, fun i => ?_⟩
  · exact inRange_eq_false_iff.2 fun ⟨h0, _⟩ => absurd hneg (not_lt.2 h0)
  · exact inRange_eq_false_iff.2 fun ⟨h0, hN⟩ => absurd hN (not_lt.2 h0)

/-! ## The operations as the statements spell them, and the failing checks -/

theorem respond_eq_delivered (s : State) (i : Instr) (st : Status) (d : BitVec 32) :
    respond i st d s = delivered s i st d := rfl

theorem raiseFault_eq_faulted (s : State) (r : FaultReason) : raiseFault r s = faulted s r := rfl

/-- Check 5 of R134 fails before INIT. -/
theorem needInit_of_not_init {body : State → State} {s : State} (h : s.init = false) :
    needInit body s = faulted s .uninit := by
  simp [needInit, h, raiseFault_eq_faulted]

/-- Check 7 of R134 fails outside `[0, N)`. -/
theorem needInRange_of_out {i : Int} {body : State → State} {s : State} (h : inRange s.N i = false) :
    needInRange i body s = faulted s .boundsRead := by
  simp [needInRange, h, raiseFault_eq_faulted]

@[simp] theorem pixels_respond (s : State) (i : Instr) (st : Status) (d : BitVec 32) :
    pixels (respond i st d s) = pixels s := rfl

/-- An in-range write changes the buffer field alone, by one write of the entry (R35). -/
theorem storePixel_of_inRange {s : State} {i : Int} (h : inRange s.N i = true) (c : Color) :
    storePixel i c s = { s with PB := writePixel s.PB (pixelIndex i) c } := by
  simp [storePixel, h]

/-- An in-range index names an entry of the sequence `PB`, the one a read returns (R30, R33). -/
theorem getElem?_pixels_of_inRange {s : State} {i : Int} (h : inRange s.N i = true) :
    (pixels s)[pixelIndex i]? = some (readPixel s.PB (pixelIndex i)) := by
  have hlt : pixelIndex i < (pixels s).length := by simpa using pixelIndex_lt h
  rw [List.getElem?_eq_getElem hlt, getElem_pixels]

/-! ## The commands -/

/-- A command that performs the shared write behind acceptance and check 5, answered as `shown`, writes one pixel: the
frame is SETC's and WRPX's, and an alias's, alike (R32, R63, R66, R68). -/
theorem writesOnePixel_of_performWrite {cmd shown : Instr} {i : Int} {c : Color}
    (hexec : ∀ s, exec cmd s = performWrite shown i c s) : WritesOnePixel cmd shown i c := by
  rintro s ⟨hf, hb⟩
  rw [hexec, performWrite, accept_accepting hf hb]
  refine ⟨fun hinit => ?_, fun hinit hout => ?_, fun hinit h0 hN hwf => ?_⟩
  · rw [needInit_of_not_init hinit]
  · rw [needInit_of_init hinit, storePixel_out (inRange_eq_false_iff.2 hout), respond_eq_delivered]
  · have hin : inRange s.N i = true := inRange_iff.2 ⟨h0, hN⟩
    rw [needInit_of_init hinit]
    refine ⟨_, rfl, ?_, fun k hk => ?_, fun hheld => ?_, ?_⟩
    · rw [pixels_respond, pixels_storePixel hwf hin]
    · rw [respond_PB, storePixel_of_inRange hin, readPixel_writePixel_other _ _ hk]
    · rw [respond_PB, storePixel_of_inRange hin, writePixel_held hwf hheld]
    · rw [storePixel_of_inRange hin]; rfl

/-- Settles O21: SETC and WRPX both perform the shared write, each answered under its own name. -/
theorem setcAndWrpxWriteOnePixel : Obligations.SetcAndWrpxWriteOnePixel := by
  unfold Obligations.SetcAndWrpxWriteOnePixel
  exact ⟨fun a d => ⟨decodeCommand_setc a d, decodeCommand_wrpx a d⟩,
    fun i c => ⟨writesOnePixel_of_performWrite (exec_setc · i c), writesOnePixel_of_performWrite (exec_wrpx · i c)⟩⟩

/-- Settles O23: behind acceptance and checks 5 and 7 RDPX only answers the entry it reads. -/
theorem rdpxReadsPixel : Obligations.RdpxReadsPixel := by
  unfold Obligations.RdpxReadsPixel
  refine ⟨decodeCommand_rdpx, fun s i hacc => ?_⟩
  obtain ⟨hf, hb⟩ := hacc
  rw [exec_rdpx, accept_accepting hf hb]
  refine ⟨fun hinit => ?_, fun hinit hout => ?_, fun hinit h0 hN => ?_⟩
  · rw [needInit_of_not_init hinit]
  · rw [needInit_of_init hinit, needInRange_of_out (inRange_eq_false_iff.2 hout)]
  · have hin : inRange s.N i = true := inRange_iff.2 ⟨h0, hN⟩
    refine ⟨_, getElem?_pixels_of_inRange hin, ?_⟩
    rw [needInit_of_init hinit, needInRange_of_inRange hin, respond_eq_delivered]

end Sys2Proof.Proofs
end

section
/-! PROOFS. The formats and the encoder (30_encoding.md): the fields a command reads, the packed Color and the packed item,
the symbol table, the frame by position, the aliases of SETC and the reserved opcodes. -/

namespace Sys2Proof.Proofs

open Sys2Proof Sys2Proof.Machine Sys2Proof.Claims

/-! ## The words of the commands that leave a field unused, and of the reserved opcodes (R57, R59) -/

theorem decodeCommand_init (a d : BitVec 32) : decodeCommand (commandWord 0x1 a d) = .init a.toNat := by
  simp [decodeCommand, zext32]

theorem decodeCommand_count (a d : BitVec 32) : decodeCommand (commandWord 0x5 a d) = .count := by
  simp [decodeCommand]

theorem decodeCommand_enc (a d : BitVec 32) : decodeCommand (commandWord 0x6 a d) = .enc := by
  simp [decodeCommand]

theorem decodeCommand_cfg (a d : BitVec 32) :
    decodeCommand (commandWord 0x7 a d) = .cfg (d.extractLsb' 16 8) (d.extractLsb' 8 8) (d.extractLsb' 0 8) := by
  simp [decodeCommand]

theorem decodeCommand_tx (a d : BitVec 32) : decodeCommand (commandWord 0x8 a d) = .tx := by
  simp [decodeCommand]

theorem decodeCommand_begin (a d : BitVec 32) : decodeCommand (commandWord 0x9 a d) = .begin a.toNat := by
  simp [decodeCommand, zext32]

theorem decodeCommand_update (a d : BitVec 32) : decodeCommand (commandWord 0xA a d) = .update := by
  simp [decodeCommand]

theorem decodeCommand_reserved0 (a d : BitVec 32) : decodeCommand (commandWord 0x0 a d) = .reserved0 a d := by
  simp [decodeCommand]

theorem decodeCommand_reservedB (a d : BitVec 32) : decodeCommand (commandWord 0xB a d) = .reservedB a d := by
  simp [decodeCommand]

theorem decodeCommand_reservedC (a d : BitVec 32) : decodeCommand (commandWord 0xC a d) = .reservedC a d := by
  simp [decodeCommand]

theorem decodeCommand_reservedD (a d : BitVec 32) : decodeCommand (commandWord 0xD a d) = .reservedD a d := by
  simp [decodeCommand]

theorem decodeCommand_reservedE (a d : BitVec 32) : decodeCommand (commandWord 0xE a d) = .reservedE a d := by
  simp [decodeCommand]

theorem decodeCommand_reservedF (a d : BitVec 32) : decodeCommand (commandWord 0xF a d) = .reservedF a d := by
  simp [decodeCommand]

/-- CFG reads the low 24 bits of `d` alone (R57). -/
theorem decodeCommand_cfg_congr (a a' : BitVec 32) {d d' : BitVec 32} (h : d.extractLsb' 0 24 = d'.extractLsb' 0 24) :
    decodeCommand (commandWord 0x7 a d) = decodeCommand (commandWord 0x7 a' d') := by
  have hbyte (start : Nat) (hs : start + 8 ≤ 24) : d.extractLsb' start 8 = d'.extractLsb' start 8 := by
    rw [← BitVec.extractLsb'_extractLsb'_of_le hs, h, BitVec.extractLsb'_extractLsb'_of_le hs]
  rw [decodeCommand_cfg, decodeCommand_cfg, hbyte 16 (by decide), hbyte 8 (by decide), hbyte 0 (by decide)]

/-- Settles O3: each decoded command names only the fields R57 gives it, and the encoder's unused fields are literal
zeros. -/
theorem unusedFieldsIgnored : Obligations.UnusedFieldsIgnored := by
  unfold Obligations.UnusedFieldsIgnored
  refine ⟨?_, ?_, fun a d a' d' => decodeCommand_cfg_congr a a', fun n => ⟨_, rfl, rfl⟩, fun i => ⟨_, rfl⟩,
    rfl, rfl, rfl, rfl, fun p c k => ⟨_, rfl, ?_⟩⟩
  · rintro op (rfl | rfl | rfl | rfl) a d a' d'
    · rw [decodeCommand_count, decodeCommand_count]
    · rw [decodeCommand_enc, decodeCommand_enc]
    · rw [decodeCommand_tx, decodeCommand_tx]
    · rw [decodeCommand_update, decodeCommand_update]
  · rintro op (rfl | rfl | rfl) a d d'
    · rw [decodeCommand_init, decodeCommand_init]
    · rw [decodeCommand_rdpx, decodeCommand_rdpx]
    · rw [decodeCommand_begin, decodeCommand_begin]
  · rw [BitVec.extractLsb'_append_eq_of_le (by decide), BitVec.extractLsb'_append_eq_of_le (by decide)]
    exact BitVec.extractLsb'_append_eq_left

/-! ## Reserved opcodes and aliases -/

/-- What all six reserved rows share: once accepted, the fault is recorded and nothing else changes (R59). -/
theorem accept_illegalOp {s : State} (hacc : s.accepting) :
    accept (raiseFault .illegalOp) s = .next (faulted s .illegalOp) :=
  accept_accepting hacc.1 hacc.2

/-- Settles O30: a reserved opcode decodes to its own row, and all six rows share one meaning. -/
theorem reservedOpcodesFault : Obligations.ReservedOpcodesFault := by
  unfold Obligations.ReservedOpcodesFault
  refine ⟨?_, fun a d s hacc => ?_⟩
  · rintro op (rfl | rfl | rfl | rfl | rfl | rfl) a d s hacc
    · rw [decodeCommand_reserved0, exec_reserved0, accept_illegalOp hacc]
    · rw [decodeCommand_reservedB, exec_reservedB, accept_illegalOp hacc]
    · rw [decodeCommand_reservedC, exec_reservedC, accept_illegalOp hacc]
    · rw [decodeCommand_reservedD, exec_reservedD, accept_illegalOp hacc]
    · rw [decodeCommand_reservedE, exec_reservedE, accept_illegalOp hacc]
    · rw [decodeCommand_reservedF, exec_reservedF, accept_illegalOp hacc]
  · rw [exec_reserved0, exec_reservedB, exec_reservedC, exec_reservedD, exec_reservedE, exec_reservedF]
    simp only [accept_illegalOp hacc, and_self]

/-- Settles O22: an alias has the word of the SETC it stands for and performs SETC's shared write, recorded as SETC. -/
theorem aliasesAreSetc : Obligations.AliasesAreSetc := by
  unfold Obligations.AliasesAreSetc
  intro i v c
  obtain ⟨hword, -, -⟩ := Laws.CoreWord.setcv i v
  exact ⟨hword.symm, rfl, rfl, writesOnePixel_of_performWrite (exec_setcv · i v),
    writesOnePixel_of_performWrite (exec_setled · i c), fun n => ⟨rfl, rfl⟩, rfl, rfl⟩

/-! ## Packed words as numbers (R46, R47, R51) -/

/-- The number of two fields side by side. -/
theorem toNat_append_eq_add {m n : Nat} (x : BitVec m) (y : BitVec n) :
    (x ++ y).toNat = x.toNat * 2 ^ n + y.toNat := by
  rw [BitVec.toNat_append, ← Nat.shiftLeft_add_eq_or_of_lt y.isLt, Nat.shiftLeft_eq]

/-- The number of four bytes, the first one the most significant. -/
theorem toNat_append_bytes (x y z u : Byte) :
    (x ++ y ++ z ++ u).toNat = x.toNat * 2 ^ 24 + y.toNat * 2 ^ 16 + z.toNat * 2 ^ 8 + u.toNat := by
  simp only [toNat_append_eq_add]
  ring

theorem unpack_pack (c : Color) : Color.unpack c.pack = c := by
  obtain ⟨r, g, b, w⟩ := c
  simp only [Color.unpack, Color.pack, Color.mk.injEq]
  refine ⟨?_, ?_, ?_, BitVec.extractLsb'_append_eq_right⟩
  · rw [BitVec.extractLsb'_append_eq_of_le (by decide), BitVec.extractLsb'_append_eq_of_le (by decide)]
    exact BitVec.extractLsb'_append_eq_left
  · rw [BitVec.extractLsb'_append_eq_of_le (by decide), BitVec.extractLsb'_append_eq_of_le (by decide)]
    exact BitVec.extractLsb'_append_eq_right
  · rw [BitVec.extractLsb'_append_eq_of_le (by decide)]
    exact BitVec.extractLsb'_append_eq_right

/-- The number of a byte of a 32-bit value. -/
theorem toNat_extract_byte (v : BitVec 32) (start : Nat) :
    (v.extractLsb' start 8).toNat = v.toNat / 2 ^ start % 2 ^ 8 := by
  rw [BitVec.extractLsb'_toNat, Nat.shiftRight_eq_div_pow]

/-- Settles O6: a packed Color is its four bytes side by side, and unpacking takes them apart again. -/
theorem colorPacking : Obligations.ColorPacking := by
  unfold Obligations.ColorPacking
  refine ⟨fun c => ⟨toNat_append_bytes _ _ _ _, unpack_pack c⟩, fun v => ⟨Laws.pack_unpack v, ?_, ?_, ?_, ?_⟩⟩
  · exact toNat_extract_byte v 24
  · exact toNat_extract_byte v 16
  · exact toNat_extract_byte v 8
  · exact (toNat_extract_byte v 0).trans (by rw [pow_zero, Nat.div_one])

theorem ofBit_bit (l : Level) : Level.ofBit l.bit = l := by cases l <;> rfl

theorem toNat_ofNat_duration {n : Nat} (h : n ≤ 32767) : (BitVec.ofNat 15 n).toNat = n := by
  rw [BitVec.toNat_ofNat, Nat.mod_eq_of_lt (by omega)]

/-- The number of a packed item whose durations fit their fields (R51). -/
theorem toNat_packItem (it : Item) (h0 : it.duration0 ≤ 32767) (h1 : it.duration1 ≤ 32767) :
    it.pack.toNat =
      it.level1.bit.toNat * 2 ^ 31 + it.duration1 * 2 ^ 16 + it.level0.bit.toNat * 2 ^ 15 + it.duration0 := by
  simp only [Item.pack, toNat_append_eq_add, toNat_ofNat_duration h0, toNat_ofNat_duration h1]
  ring

/-- Unpacking takes each field from its place; the durations survive the 15 bits because they fit (R51). -/
theorem unpack_packItem (it : Item) (h0 : it.duration0 ≤ 32767) (h1 : it.duration1 ≤ 32767) :
    Item.unpack it.pack = it := by
  have hlevel1 : it.pack.extractLsb' 31 1 = it.level1.bit := by
    rw [Item.pack, BitVec.extractLsb'_append_eq_of_le (by decide), BitVec.extractLsb'_append_eq_of_le (by decide)]
    exact BitVec.extractLsb'_append_eq_left
  have hduration1 : it.pack.extractLsb' 16 15 = BitVec.ofNat 15 it.duration1 := by
    rw [Item.pack, BitVec.extractLsb'_append_eq_of_le (by decide), BitVec.extractLsb'_append_eq_of_le (by decide)]
    exact BitVec.extractLsb'_append_eq_right
  have hlevel0 : it.pack.extractLsb' 15 1 = it.level0.bit := by
    rw [Item.pack, BitVec.extractLsb'_append_eq_of_le (by decide)]
    exact BitVec.extractLsb'_append_eq_right
  have hduration0 : it.pack.extractLsb' 0 15 = BitVec.ofNat 15 it.duration0 := BitVec.extractLsb'_append_eq_right
  simp only [Item.unpack, hlevel1, hduration1, hlevel0, hduration0, ofBit_bit, toNat_ofNat_duration h0,
    toNat_ofNat_duration h1]

/-- Settles O7: the packed item is its four fields at their places, each one kept. -/
theorem itemPacking : Obligations.ItemPacking := by
  unfold Obligations.ItemPacking
  exact ⟨rfl, rfl, fun it h0 h1 => ⟨toNat_packItem it h0 h1, unpack_packItem it h0 h1⟩⟩

/-! ## The frame by position (R53, R84 to R86) -/

/-- In a concatenation of blocks of one length, position `j` is position `j % n` of block `j / n`. -/
theorem getElem?_flatMap_of_length {α β : Type} {f : α → List β} {n : Nat} (hf : ∀ a, (f a).length = n) (hn : 0 < n)
    (l : List α) (j : Nat) : (l.flatMap f)[j]? = l[j / n]?.bind (fun a => (f a)[j % n]?) := by
  induction l generalizing j with
  | nil => rfl
  | cons a rest ih =>
    rw [List.flatMap_cons]
    rcases Nat.lt_or_ge j n with hj | hj
    · rw [List.getElem?_append_left (by rw [hf]; exact hj), Nat.div_eq_of_lt hj, Nat.mod_eq_of_lt hj]
      rfl
    · rw [List.getElem?_append_right (by rw [hf]; exact hj), hf, ih, Nat.div_eq_sub_div hn hj, Nat.mod_eq_sub_mod hj]
      rfl

theorem getElem?_byteBits (v : Byte) {m : Nat} (hm : m < 8) : (byteBits v)[m]? = some (v.getLsbD (7 - m)) := by
  interval_cases m <;> rfl

/-- The wire word is the wire bytes side by side: its bit `31 - q` is bit `7 - q mod 8` of byte `q div 8`. -/
theorem exists_wireByte (c : Color) {q : Nat} (hq : q < 32) :
    ∃ v, (wireBytes c)[q / 8]? = some v ∧ (wireWord c).getLsbD (31 - q) = v.getLsbD (7 - q % 8) := by
  simp only [wireWord, BitVec.getLsbD_append]
  have hbyte : q / 8 = 0 ∨ q / 8 = 1 ∨ q / 8 = 2 ∨ q / 8 = 3 := by omega
  rcases hbyte with h | h | h | h <;> rw [h]
  · refine ⟨c.g, rfl, ?_⟩
    rw [if_neg (by omega), if_neg (by omega), if_neg (by omega)]
    congr 1; omega
  · refine ⟨c.r, rfl, ?_⟩
    rw [if_neg (by omega), if_neg (by omega), if_pos (by omega)]
    congr 1; omega
  · refine ⟨c.b, rfl, ?_⟩
    rw [if_neg (by omega), if_pos (by omega)]
    congr 1; omega
  · refine ⟨c.w, rfl, ?_⟩
    rw [if_pos (by omega)]
    congr 1; omega

theorem getElem?_encPixel (c : Color) {q : Nat} (hq : q < 32) :
    (encPixel c)[q]? = some (sym ((wireWord c).getLsbD (31 - q))) := by
  obtain ⟨v, hv, hbit⟩ := exists_wireByte c hq
  rw [encPixel, List.getElem?_map, getElem?_flatMap_of_length length_byteBits (by decide), hv, Option.bind_some,
    getElem?_byteBits v (Nat.mod_lt q (by decide)), Option.map_some, hbit]

@[simp] theorem length_encPixel (c : Color) : (encPixel c).length = 32 := rfl

theorem length_flatMap_encPixel (pb : List Color) : (pb.flatMap encPixel).length = 32 * pb.length := by
  simp [Nat.mul_comm]

theorem length_encodeFrame (pb : List Color) : (encodeFrame pb).length = 32 * pb.length + 1 := by
  rw [encodeFrame, List.length_append, length_flatMap_encPixel, List.length_singleton]

/-- The item of a data position, by the wire word of its pixel (R53). -/
theorem getElem?_encodeFrame_data (pb : List Color) {j : Nat} (hj : j < 32 * pb.length) :
    ∃ c, pb[j / 32]? = some c ∧ (encodeFrame pb)[j]? = some (sym ((wireWord c).getLsbD (31 - j % 32))) := by
  have hp : j / 32 < pb.length := Nat.div_lt_of_lt_mul hj
  refine ⟨pb[j / 32], List.getElem?_eq_getElem hp, ?_⟩
  rw [encodeFrame, List.getElem?_append_left (by rw [length_flatMap_encPixel]; exact hj),
    getElem?_flatMap_of_length length_encPixel (by decide), List.getElem?_eq_getElem hp, Option.bind_some,
    getElem?_encPixel _ (Nat.mod_lt j (by decide))]

theorem getElem?_encodeFrame_last (pb : List Color) : (encodeFrame pb)[32 * pb.length]? = some symTRST := by
  rw [encodeFrame, List.getElem?_append_right (length_flatMap_encPixel pb).le, length_flatMap_encPixel, Nat.sub_self]
  rfl

/-- A pixel holds no item but T0 and T1. -/
theorem mem_encPixel {it : Item} {c : Color} (h : it ∈ encPixel c) : it = symT0 ∨ it = symT1 := by
  obtain ⟨b, -, rfl⟩ := List.mem_map.1 h
  exact sym_mem b

theorem mem_flatMap_encPixel {it : Item} {pb : List Color} (h : it ∈ pb.flatMap encPixel) : it = symT0 ∨ it = symT1 := by
  obtain ⟨c, -, hc⟩ := List.mem_flatMap.1 h
  exact mem_encPixel hc

/-- A frame holds no item but the three symbols. -/
theorem mem_encodeFrame {it : Item} {pb : List Color} (h : it ∈ encodeFrame pb) :
    it = symT0 ∨ it = symT1 ∨ it = symTRST := by
  rcases List.mem_append.1 h with hdata | hlast
  · exact (mem_flatMap_encPixel hdata).imp_right .inl
  · exact .inr (.inr (List.mem_singleton.1 hlast))

/-- No data item is the reset item, so a frame holds it once (R86). -/
theorem count_symTRST_encodeFrame (pb : List Color) : (encodeFrame pb).count symTRST = 1 := by
  have hdata : symTRST ∉ pb.flatMap encPixel := fun h => absurd (mem_flatMap_encPixel h) (by decide)
  rw [encodeFrame, List.count_append, List.count_eq_zero_of_not_mem hdata, List.count_singleton_self]

/-- An all-zero buffer sends a 0 bit throughout (R86). -/
theorem encodeFrame_replicate_zero (n : Nat) :
    encodeFrame (List.replicate n Color.zero) = List.replicate (32 * n) symT0 ++ [symTRST] := by
  have hzero : encPixel Color.zero = List.replicate 32 symT0 := by decide
  rw [encodeFrame, List.flatMap_replicate, hzero, List.flatten_replicate_replicate, Nat.mul_comm]

/-- Settles O9: the table's words by evaluation, the items of a frame by membership, and the bits by injectivity. -/
theorem symbolTable : Obligations.SymbolTable := by
  unfold Obligations.SymbolTable
  exact ⟨rfl, rfl, rfl, rfl, rfl, rfl, rfl, rfl, length_waveItem _, length_waveItem _, length_waveItem _,
    by decide, by decide, by decide, fun _ _ => mem_encodeFrame,
    fun _ _ h => List.map_injective_iff.2 (fun _ _ => sym_injective) h⟩

/-- Settles O11: the wire word is the packed Color with red and green exchanged, sent from its top bit down. -/
theorem wireWordOrder : Obligations.WireWordOrder := by
  unfold Obligations.WireWordOrder
  refine fun c => ⟨toNat_append_bytes _ _ _ _, fun k hk => ?_, rfl⟩
  rw [getElem?_encPixel c (by omega), Nat.sub_sub_self hk]

/-- Settles O12: the data items are the pixels' blocks of 32, in order, and the reset item follows them. -/
theorem frameOfBuffer : Obligations.FrameOfBuffer := by
  unfold Obligations.FrameOfBuffer
  refine ⟨fun pb => ?_, fun pb => ⟨length_encodeFrame pb, getElem?_encodeFrame_last pb, fun j hj => ?_,
    count_symTRST_encodeFrame pb⟩, encodeFrame_nil, encodeFrame_replicate_zero⟩
  · rw [encodeFrame, List.flatMap_def, symTRST]
  · obtain ⟨c, -, hitem⟩ := getElem?_encodeFrame_data pb hj
    rw [hitem]
    exact (sym_mem _).imp (congrArg some) (congrArg some)

/-- Settles O13: the wire word gives a position's symbol, and the wire bytes give the wire word's bit. -/
theorem frameIndexed : Obligations.FrameIndexed := by
  unfold Obligations.FrameIndexed
  refine fun pb => ⟨fun j hj => ?_, getElem?_encodeFrame_last pb⟩
  obtain ⟨c, hc, hitem⟩ := getElem?_encodeFrame_data pb hj
  obtain ⟨v, hv, hbit⟩ := exists_wireByte c (Nat.mod_lt j (by decide))
  exact ⟨c, hc, ⟨v, hv, hbit ▸ hitem⟩, hitem⟩

end Sys2Proof.Proofs
end

section
/-! PROOFS. The pixel-buffer commands (40_pixel_buffer.md): INIT and COUNT on an accepting block, and the batch access of
R70 as one command for each entry, in any order. -/

namespace Sys2Proof.Proofs

open Sys2Proof Sys2Proof.Machine Sys2Proof.Claims

/-! ## INIT and COUNT (R65, R69) -/

/-- Check 4 of R134 fails on a second buffer, whatever the count. -/
theorem needFresh_of_init {n : Nat} {body : State → State} {s : State} (h : s.init = true) :
    needFresh n body s = faulted s .reinit := by
  simp [needFresh, h, raiseFault_eq_faulted]

/-- Check 6 of R134 fails on a count above `NMAX`. -/
theorem needFresh_of_countRange {n : Nat} {body : State → State} {s : State} (h : s.init = false)
    (hn : Config.nmax < n) : needFresh n body s = faulted s .countRange := by
  simp [needFresh, h, hn, raiseFault_eq_faulted]

/-- The bound R4 puts on `NMAX`. -/
theorem nmax_lt : Config.nmax < 134217728 := Config.countLimit.isLt

/-- Settles O19: checks 4 and 6 in their order, and behind them the buffer is created and `(OK, 0)` answered. -/
theorem initCreatesBuffer : Obligations.InitCreatesBuffer := by
  unfold Obligations.InitCreatesBuffer
  refine ⟨decodeCommand_init, fun s n ⟨hf, hb⟩ => ?_⟩
  rw [exec_init, accept_accepting hf hb]
  refine ⟨fun hinit => ?_, fun hinit hn => ?_, fun hinit hn => ?_⟩
  · rw [needFresh_of_init hinit]
  · rw [needFresh_of_countRange hinit hn]
  · rw [needFresh_of_fresh hinit hn]
    exact ⟨_, rfl, by rw [pixels_respond, pixels_createBuffer], rfl⟩

/-- Settles O24: behind check 5 COUNT only answers `N`, and `N <= NMAX` fits the 32-bit field. -/
theorem countReturnsLedCount : Obligations.CountReturnsLedCount := by
  unfold Obligations.CountReturnsLedCount
  refine ⟨decodeCommand_count, fun s ⟨hf, hb⟩ => ?_⟩
  rw [exec_count, accept_accepting hf hb]
  refine ⟨fun hinit => ?_, fun hinit => ?_⟩
  · rw [needInit_of_not_init hinit]
  · rw [needInit_of_init hinit]
    refine ⟨_, rfl, fun hN => ?_⟩
    have hmax := nmax_lt
    rw [BitVec.toNat_ofNat, Nat.mod_eq_of_lt (by omega)]

/-! ## Batch access (R70) -/

theorem inRange_natCast {n k : Nat} (h : k < n) : inRange n (k : Int) = true :=
  inRange_iff.2 ⟨Int.natCast_nonneg k, Int.ofNat_lt.2 h⟩

theorem performAll_cons_of_next {i : Instr} {s t : State} (h : exec i s = .next t) (rest : List Instr) :
    performAll (i :: rest) s = performAll rest t := by
  simp only [performAll, h]

/-- Commands that are the batch of some entries up to order are the batch of those entries in another order. -/
theorem exists_perm_of_perm_map {α β : Type} {f : α → β} {l : List α} {cmds : List β} (h : cmds.Perm (l.map f)) :
    ∃ l' : List α, cmds = l'.map f ∧ l'.Perm l :=
  (congrFun₂ (List.eq_map_comp_perm f) cmds l).mpr h

/-! ### Batch write -/

/-- The WRPX command that writes one Color into one entry. -/
def writeCommand (x : Color × Nat) : Instr := .wrpx (x.2 : Int) x.1

/-- The buffer after the Colors are written into the entries they are paired with, from the left. -/
def writeEntries (l : List (Color × Nat)) (pb : List (Nat × Color)) : List (Nat × Color) :=
  l.foldl (fun pb x => writePixel pb x.2 x.1) pb

/-- The same writes on a sequence of Colors. -/
def setEntries (l : List (Color × Nat)) (p : List Color) : List Color := l.foldl (fun p x => p.set x.2 x.1) p

/-- `MemWrite` is defined inside the buffer alone, and writes the Colors from its first entry on. -/
theorem memWrite_eq_some {i : Int} {v : List Color} {s m : State} (h : memWrite i v s = some m) :
    0 ≤ i ∧ i + (v.length : Int) ≤ (s.N : Int) ∧ m = { s with PB := writeEntries (v.zipIdx (pixelIndex i)) s.PB } := by
  unfold memWrite at h
  split at h
  · next hin =>
    simp only [Bool.and_eq_true, decide_eq_true_eq] at hin
    exact ⟨hin.1, hin.2, (Option.some.inj h).symm⟩
  · cases h

/-- An in-range write on an accepting block. -/
theorem exec_writeCommand {s : State} (hacc : s.accepting) (hinit : s.init = true) {x : Color × Nat} (hx : x.2 < s.N) :
    exec (writeCommand x) s =
      .next (delivered { s with PB := writePixel s.PB x.2 x.1 } (writeCommand x) .ok 0) := by
  rw [writeCommand, exec_wrpx, accept_accepting hacc.1 hacc.2, needInit_of_init hinit,
    storePixel_of_inRange (inRange_natCast hx), respond_eq_delivered]
  rfl

/-- WRPX commands inside the buffer write their entries one after the other, and of the block nothing else changes. -/
theorem performAll_writes (l : List (Color × Nat)) (s : State) (hacc : s.accepting) (hinit : s.init = true)
    (hin : ∀ x ∈ l, x.2 < s.N) :
    ∃ t, performAll (l.map writeCommand) s = .next t ∧ t = { s with PB := writeEntries l s.PB, env := t.env } := by
  induction l generalizing s with
  | nil => exact ⟨s, rfl, rfl⟩
  | cons x rest ih =>
    obtain ⟨hx, hrest⟩ := List.forall_mem_cons.1 hin
    rw [List.map_cons, performAll_cons_of_next (exec_writeCommand hacc hinit hx)]
    exact ih _ hacc hinit hrest

/-- One write seen on the sequence `PB`. -/
theorem pixels_writePixel {s : State} (hwf : Memory.wf s.PB) {k : Nat} (hk : k < s.N) (c : Color) :
    pixels { s with PB := writePixel s.PB k c } = (pixels s).set k c := by
  have hin := inRange_natCast hk
  have h := pixels_storePixel hwf hin c
  rwa [storePixel_of_inRange hin] at h

/-- The writes seen on the sequence `PB`. -/
theorem pixels_writeEntries (l : List (Color × Nat)) (s : State) (hwf : Memory.wf s.PB) (hin : ∀ x ∈ l, x.2 < s.N) :
    pixels { s with PB := writeEntries l s.PB } = setEntries l (pixels s) := by
  induction l generalizing s with
  | nil => rfl
  | cons x rest ih =>
    obtain ⟨hx, hrest⟩ := List.forall_mem_cons.1 hin
    rw [setEntries, List.foldl_cons, ← pixels_writePixel hwf hx]
    exact ih { s with PB := writePixel s.PB x.2 x.1 } (writePixel_wf hwf _ _) hrest

/-- Two pairs of a batch that name the same entry are the same pair. -/
theorem eq_of_mem_zipIdx {v : List Color} {k : Nat} {x y : Color × Nat} (hx : x ∈ v.zipIdx k) (hy : y ∈ v.zipIdx k)
    (h : x.2 = y.2) : x = y := by
  have hx' := (List.mem_zipIdx_iff_le_and_getElem?_sub.1 hx).2
  have hy' := (List.mem_zipIdx_iff_le_and_getElem?_sub.1 hy).2
  rw [h, hy'] at hx'
  exact Prod.ext (Option.some.inj hx').symm h

/-- A batch names each entry once, so its writes give one sequence in every order. -/
theorem setEntries_eq_of_perm {v : List Color} {k : Nat} {l : List (Color × Nat)} (h : l.Perm (v.zipIdx k))
    (p : List Color) : setEntries l p = setEntries (v.zipIdx k) p := by
  refine h.foldl_eq' (fun x hx y hy p => ?_) p
  by_cases hxy : x.2 = y.2
  · rw [eq_of_mem_zipIdx (h.mem_iff.1 hx) (h.mem_iff.1 hy) hxy]
  · exact List.set_comm _ _ hxy

/-- The write half of R70: on the sequence `PB`, both the commands and `MemWrite` set each named entry once. -/
theorem performAll_batchWrites {s m : State} {i : Int} {v : List Color} {cmds : List Instr} (hacc : s.accepting)
    (hinit : s.init = true) (hwf : Memory.wf s.PB) (hm : memWrite i v s = some m)
    (hperm : cmds.Perm (batchWrites (pixelIndex i) v)) :
    ∃ t, performAll cmds s = .next t ∧ pixels t = pixels m ∧ t = { s with PB := t.PB, env := t.env } := by
  obtain ⟨h0, hlen, rfl⟩ := memWrite_eq_some hm
  obtain ⟨l, rfl, hl⟩ := exists_perm_of_perm_map (f := writeCommand) hperm
  have hbatch : ∀ x ∈ v.zipIdx (pixelIndex i), x.2 < s.N := fun x hx => by
    have hlt := List.snd_lt_add_of_mem_zipIdx hx
    simp only [pixelIndex] at hlt
    omega
  have hin : ∀ x ∈ l, x.2 < s.N := fun x hx => hbatch x (hl.mem_iff.1 hx)
  obtain ⟨t, hrun, ht⟩ := performAll_writes l s hacc hinit hin
  refine ⟨t, hrun, ?_, by rw [ht]⟩
  calc pixels t = pixels { s with PB := writeEntries l s.PB } := by rw [ht]; rfl
    _ = setEntries l (pixels s) := pixels_writeEntries l s hwf hin
    _ = setEntries (v.zipIdx (pixelIndex i)) (pixels s) := setEntries_eq_of_perm hl _
    _ = pixels { s with PB := writeEntries (v.zipIdx (pixelIndex i)) s.PB } := (pixels_writeEntries _ s hwf hbatch).symm

/-! ### Batch read -/

/-- The RDPX command that reads one entry. -/
def readCommand (k : Nat) : Instr := .rdpx (k : Int)

/-- The response of RDPX to entry `k` of a buffer. -/
def readAnswer (pb : List (Nat × Color)) (k : Nat) : Event := .response (readCommand k) ⟨.ok, (readPixel pb k).pack⟩

/-- `s` with events appended to the history and nothing else changed. -/
def withEvents (es : List Event) (s : State) : State := { s with env := { s.env with events := s.env.events ++ es } }

theorem withEvents_nil (s : State) : withEvents [] s = s := by simp [withEvents]

theorem withEvents_withEvents (es fs : List Event) (s : State) :
    withEvents fs (withEvents es s) = withEvents (es ++ fs) s := by
  simp [withEvents]

theorem newEvents_withEvents (es : List Event) (s : State) : newEvents s (withEvents es s) = es :=
  List.drop_left

/-- `MemRead` is defined inside the buffer alone, and its Colors are those of the entries from the first one on. -/
theorem memRead_eq_some {i : Int} {n : Nat} {s : State} {cs : List Color} (h : memRead i n s = some cs) :
    0 ≤ i ∧ i + (n : Int) ≤ (s.N : Int) ∧ cs = (List.range' (pixelIndex i) n).map (readPixel s.PB) := by
  unfold memRead at h
  split at h
  · next hin =>
    simp only [Bool.and_eq_true, decide_eq_true_eq] at hin
    refine ⟨hin.1, hin.2, ?_⟩
    rw [← Option.some.inj h, List.range'_eq_map_range, List.map_map]
    rfl
  · cases h

theorem batchReads_eq_map (k n : Nat) : batchReads k n = (List.range' k n).map readCommand := by
  rw [batchReads, List.range'_eq_map_range, List.map_map]
  rfl

/-- An in-range read on an accepting block. -/
theorem exec_readCommand {s : State} (hacc : s.accepting) (hinit : s.init = true) {k : Nat} (hk : k < s.N) :
    exec (readCommand k) s = .next (withEvents [readAnswer s.PB k] s) := by
  rw [readCommand, exec_rdpx, accept_accepting hacc.1 hacc.2, needInit_of_init hinit,
    needInRange_of_inRange (inRange_natCast hk)]
  rfl

/-- RDPX commands inside the buffer answer their entries one after the other and change nothing else. -/
theorem performAll_reads (l : List Nat) (s : State) (hacc : s.accepting) (hinit : s.init = true)
    (hin : ∀ k ∈ l, k < s.N) :
    performAll (l.map readCommand) s = .next (withEvents (l.map (readAnswer s.PB)) s) := by
  induction l generalizing s with
  | nil => rw [List.map_nil, List.map_nil, withEvents_nil]; rfl
  | cons k rest ih =>
    obtain ⟨hk, hrest⟩ := List.forall_mem_cons.1 hin
    rw [List.map_cons, performAll_cons_of_next (exec_readCommand hacc hinit hk)]
    exact (ih (withEvents [readAnswer s.PB k] s) hacc hinit hrest).trans
      (congrArg Host.Outcome.next (withEvents_withEvents _ _ s))

/-- The command of the `k`-th entry of a batch that starts at `i`. -/
theorem readCommand_pixelIndex_add {i : Int} (h0 : 0 ≤ i) (k : Nat) :
    readCommand (pixelIndex i + k) = .rdpx (i + (k : Int)) := by
  rw [readCommand, pixelIndex, Int.natCast_add, Int.toNat_of_nonneg h0]

/-- Settles O43: a write batch sets each of its entries once, and a read batch answers each of its entries from a buffer
that stands. -/
theorem batchAccess : Obligations.BatchAccess := by
  unfold Obligations.BatchAccess
  refine fun s i hacc hinit => ⟨fun v m hwf hm cmds => performAll_batchWrites hacc hinit hwf hm, fun n cs hcs => ?_⟩
  obtain ⟨h0, hlen, rfl⟩ := memRead_eq_some hcs
  have hbatch : ∀ k ∈ List.range' (pixelIndex i) n, k < s.N := fun k hk => by
    have hlt := (List.mem_range'_1.1 hk).2
    simp only [pixelIndex] at hlt
    omega
  constructor
  · rw [batchReads_eq_map, performAll_reads _ s hacc hinit hbatch]
    refine ⟨_, rfl, rfl, ?_, fun k c hc => ?_⟩
    · rw [newEvents_withEvents, List.length_map, List.length_range']
    · have hk : k < n := by simpa using (List.getElem?_eq_some_iff.1 hc).1
      have hentry : (List.range' (pixelIndex i) n)[k]? = some (pixelIndex i + k) := by simp [hk]
      rw [List.getElem?_map, hentry, Option.map_some] at hc
      rw [newEvents_withEvents, List.getElem?_map, hentry, Option.map_some, readAnswer, readCommand_pixelIndex_add h0,
        Option.some.inj hc]
  · intro cmds hperm
    obtain ⟨l, rfl, hl⟩ := exists_perm_of_perm_map (batchReads_eq_map .. ▸ hperm)
    rw [performAll_reads l s hacc hinit fun k hk => hbatch k (hl.mem_iff.1 hk)]
    refine ⟨_, rfl, rfl, fun k hk => ?_⟩
    have hmem : pixelIndex i + k ∈ List.range' (pixelIndex i) n := List.mem_range'_1.2 ⟨by omega, by omega⟩
    refine ⟨_, getElem?_pixels_of_inRange (inRange_natCast (hbatch _ hmem)), ?_⟩
    rw [newEvents_withEvents, ← readCommand_pixelIndex_add h0]
    exact List.mem_map_of_mem (hl.mem_iff.2 hmem)

end Sys2Proof.Proofs
end

section
/-! PROOFS. The pulse encoder (41_pulse_encoder.md): the symbols of a pixel, the waveform of an item, ENC and TX on an
accepting block, and the turns of the peripheral while a frame is in flight. -/

namespace Sys2Proof.Proofs

open Sys2Proof Sys2Proof.Machine Sys2Proof.Claims

/-! ## Pixels and waveforms (R82 to R84, R90) -/

/-- The items of a pixel, byte group by byte group (R84). -/
theorem encPixel_eq_append (c : Color) :
    encPixel c = (byteBits c.g).map sym ++ (byteBits c.r).map sym ++ (byteBits c.b).map sym ++ (byteBits c.w).map sym :=
  rfl

/-- Settles O10: the wire bytes and the bits of a byte are the lists the rules write out, and a pixel maps `Sym` over their
concatenation. -/
theorem pixelEncoding : Obligations.PixelEncoding := by
  unfold Obligations.PixelEncoding
  refine ⟨fun c => rfl, fun v => rfl, fun c => ⟨?_, encPixel_eq_append c, length_encPixel c⟩⟩
  rw [encPixel, List.flatMap_def]

/-- An item whose second part lasts no tick drives its first level alone. -/
theorem waveItem_of_duration1_zero (l0 l1 : Level) (d0 : Nat) : waveItem ⟨l0, d0, l1, 0⟩ = List.replicate d0 l0 :=
  List.append_nil _

/-- Settles O16: an item's two levels for their durations; the reset item's second part is empty. -/
theorem itemWaveform : Obligations.ItemWaveform := by
  unfold Obligations.ItemWaveform
  exact ⟨fun _ _ _ _ => rfl, rfl, rfl, waveItem_of_duration1_zero .L .L 2000⟩

/-! ## ENC (R88) -/

/-- The length of a frame of at most `NMAX` pixels fits the 32-bit field (R4, R88). -/
theorem toNat_frameLength {n : Nat} (hn : n ≤ Config.nmax) : (BitVec.ofNat 32 (32 * n + 1)).toNat = 32 * n + 1 := by
  have hmax := nmax_lt
  rw [BitVec.toNat_ofNat, Nat.mod_eq_of_lt (by omega)]

/-- Settles O25: behind check 5 ENC loads the frame and answers its length. -/
theorem encFillsItemStore : Obligations.EncFillsItemStore := by
  unfold Obligations.EncFillsItemStore
  refine ⟨decodeCommand_enc, fun s ⟨hf, hb⟩ => ?_⟩
  rw [exec_enc, accept_accepting hf hb]
  refine ⟨fun hinit => ?_, fun hinit => ?_⟩
  · rw [needInit_of_not_init hinit]
  · rw [needInit_of_init hinit]
    exact ⟨_, rfl, toNat_frameLength⟩

/-! ## The turns of the peripheral (R96, R103, R108) -/

section Turns

variable {s : State} (hf : s.fault = none) (hb : s.busy = true)

include hf hb

theorem fetch_of_busy : fetch s = fetchItem s := by
  simp [fetch, hf, hb]

theorem step_of_wait (hm : s.env.next.move = .wait) : step s = .next (redraw s) := by
  simp [step, fetch_of_busy hf hb, fetchItem, hm]

theorem step_of_fail (hm : s.env.next.move = .fail) : step s = .next (completeTransmission .error s) := by
  simp [step, fetch_of_busy hf hb, fetchItem, hm]

/-- With every item taken, going on ends the transmission with ok. -/
theorem step_of_go_end (hm : s.env.next.move = .go) (hend : s.IS[s.pos]? = none) :
    step s = .next (completeTransmission .ok s) := by
  simp [step, fetch_of_busy hf hb, fetchItem, hm, hend]

/-- With an item left, going on emits it, be it a symbol or none. -/
theorem step_of_go_item (hm : s.env.next.move = .go) {it : Item} (hit : s.IS[s.pos]? = some it) :
    step s = .next (emitItem it s) := by
  have hpos : s.pos < s.IS.length := (List.getElem?_eq_some_iff.1 hit).1
  cases hsym : symbolOf it with
  | none => simp [step, fetch_of_busy hf hb, fetchItem, hm, hit, hsym]
  | some i =>
    simp only [step, fetch_of_busy hf hb, fetchItem, hm, hit, hsym]
    rw [exec_symbolOf hsym, takeItem_enabled it hf hb hpos]

end Turns

theorem emitsItem_emitItem (it : Item) (s : State) : EmitsItem it s (emitItem it s) :=
  ⟨rfl, rfl, rfl, rfl, rfl⟩

/-- A step of a busy block that has no item left hands none over: it waits or it completes. -/
theorem emitted_eq_of_none_left {s t : State} (hb : s.busy = true) (hend : s.IS.length ≤ s.pos)
    (hstep : step s = .next t) : t.env.emitted = s.env.emitted := by
  obtain ⟨-, hturn⟩ := step_turn hstep
  cases hturn with
  | idle free => exact absurd (free.symm.trans hb) (by decide)
  | performed _ _ _ free => exact absurd (free.symm.trans hb) (by decide)
  | waited => rfl
  | failed => rfl
  | ended => rfl
  | emitted it _ _ item => exact absurd (List.getElem?_eq_some_iff.1 item).1 (not_lt.2 hend)

/-- Settles O31: going on with an item left emits it, and no other turn hands an item over. -/
theorem generatorEmitsItem : Obligations.GeneratorEmitsItem := by
  unfold Obligations.GeneratorEmitsItem
  exact ⟨fun s it hf hb hm hit => ⟨_, step_of_go_item hf hb hm hit, emitsItem_emitItem it s⟩,
    fun _ _ => emitted_eq_of_none_left⟩

/-! ## TX (R95, R107) -/

/-- Check 8 of R134 fails without a frame. -/
theorem needFrame_of_not_valid {body : State → State} {s : State} (h : s.isValid = false) :
    needFrame body s = faulted s .noFrame := by
  simp [needFrame, h, raiseFault_eq_faulted]

theorem handsOver_startTransmission (c : Caller) (s : State) : HandsOver s s (startTransmission c s) c s.IS :=
  ⟨rfl, rfl, rfl, rfl, rfl⟩

/-- The completion clears `busy` and `is_valid`, and its two events stand last, the response with the status of the
answer (R107, R108, R110). -/
theorem completeTransmission_effect (a : Config.Answer) (s : State) :
    completeTransmission a s = { s with busy := false, isValid := false, env := (completeTransmission a s).env } ∧
      (completeTransmission a s).env.events =
        s.env.events ++ [.complete a, .response s.env.caller.instr ⟨transmitStatus a, 0⟩] :=
  ⟨rfl, by simp⟩

/-- Whichever command started the transmission, its completion answers that command. -/
theorem completesFor_instr (c : Caller) : CompletesFor c c.instr := by
  rintro s hf hb rfl
  refine ⟨fun hm => ?_, fun hm => ?_, fun hm hpos => ?_⟩
  · exact ⟨_, step_of_wait hf hb hm, rfl, rfl⟩
  · exact ⟨_, step_of_fail hf hb hm, completeTransmission_effect .error s⟩
  · have hend : s.IS[s.pos]? = none := List.getElem?_eq_none hpos.ge
    exact ⟨_, step_of_go_end hf hb hm hend, completeTransmission_effect .ok s⟩

/-- Settles O27: behind checks 5 and 8 TX is refused or handed over by `ready`, and the peripheral's turns complete it. -/
theorem txTransmitsFrame : Obligations.TxTransmitsFrame := by
  unfold Obligations.TxTransmitsFrame
  refine ⟨decodeCommand_tx, fun s ⟨hf, hb⟩ => ?_, completesFor_instr .tx⟩
  rw [exec_tx, accept_accepting hf hb]
  refine ⟨fun hinit => ?_, fun hinit hvalid => ?_, fun hinit hvalid hready => ?_, fun hinit hvalid hready => ?_⟩
  · rw [needInit_of_not_init hinit]
  · rw [needInit_of_init hinit, needFrame_of_not_valid hvalid]
  · rw [needInit_of_init hinit, needFrame_of_valid hvalid, transmitFrame_unready hready]
    rfl
  · rw [needInit_of_init hinit, needFrame_of_valid hvalid, transmitFrame_ready hready]
    exact ⟨_, rfl, handsOver_startTransmission .tx s⟩

end Sys2Proof.Proofs
end

section
/-! PROOFS. The transport's configuration (42_transport.md): the block fields and the events of CFG's body, for whichever
command performs it, and CFG on an accepting block. -/

namespace Sys2Proof.Proofs

open Sys2Proof Sys2Proof.Machine Sys2Proof.Claims

/-! ## The body of CFG (R101, R102, R105) -/

section ConfigureBody

variable (i : Instr) (pin channel clockDivisor : Byte) (s : State)

/-- Of the block, CFG's body writes `CFGR` and `ready` alone. -/
theorem configureTransport_eq :
    configureTransport i pin channel clockDivisor s =
      { s with CFGR := ⟨pin, channel, clockDivisor⟩, ready := bothOk s,
               env := (configureTransport i pin channel clockDivisor s).env } := by
  have h := configureTransport_spec i pin channel clockDivisor s
  rw [bothOk, ← h.ready_eq, ← h.CFGR_eq, ← h.init_eq, ← h.N_eq, ← h.PB_eq, ← h.IS_eq, ← h.isValid_eq, ← h.busy_eq,
    ← h.pos_eq, ← h.fault_eq]

/-- CFG's body adds its calls and its response, one list for each of the three ways it ends. -/
theorem configureTransport_env_events :
    (configureTransport i pin channel clockDivisor s).env.events =
      s.env.events ++ configureEvents s i pin channel clockDivisor := by
  unfold configureTransport configureEvents bothOk
  cases hconfigure : s.env.next.configure with
  | error => simp [hconfigure]
  | ok =>
    cases hinstall : s.env.next.install with
    | error => simp [hconfigure, hinstall]
    | ok => simp [hconfigure, hinstall]

theorem clientKept_configureTransport : clientKept s (configureTransport i pin channel clockDivisor s) :=
  have h := configureTransport_spec i pin channel clockDivisor s
  ⟨h.program_eq, h.caller_eq, h.emitted_eq⟩

end ConfigureBody

/-! ## CFG (R105) -/

/-- Settles O26: CFG is its body behind acceptance alone, with no check of its own. -/
theorem cfgConfiguresTransport : Obligations.CfgConfiguresTransport := by
  unfold Obligations.CfgConfiguresTransport
  refine ⟨decodeCommand_cfg, fun s pin channel clockDivisor ⟨hf, hb⟩ => ?_⟩
  rw [exec_cfg, accept_accepting hf hb]
  exact ⟨_, rfl, configureTransport_eq _ _ _ _ s, configureTransport_env_events _ _ _ _ s,
    clientKept_configureTransport _ _ _ _ s⟩

end Sys2Proof.Proofs
end

section
/-! PROOFS. The composed commands (43_facade.md): BEGIN as INIT's writes under CFG's body, UPDATE as ENC's writes under
TX's body. -/

namespace Sys2Proof.Proofs

open Sys2Proof Sys2Proof.Machine Sys2Proof.Claims

/-! ## BEGIN (R115) -/

/-- CFG's body leaves the sequence `PB` alone (R111). -/
@[simp] theorem pixels_configureTransport (i : Instr) (pin channel clockDivisor : Byte) (s : State) :
    pixels (configureTransport i pin channel clockDivisor s) = pixels s := by
  have h := configureTransport_spec i pin channel clockDivisor s
  rw [pixels, h.N_eq, h.PB_eq, pixels]

/-- CFG's body on the block INIT leaves writes these fields, whatever the peripheral answers: there is no rollback. -/
theorem configureTransport_createBuffer_eq (i : Instr) (pin channel clockDivisor : Byte) (n : Nat) (s : State) :
    configureTransport i pin channel clockDivisor (createBuffer n s) =
      { s with init := true, N := n, PB := (configureTransport i pin channel clockDivisor (createBuffer n s)).PB,
               CFGR := ⟨pin, channel, clockDivisor⟩, ready := bothOk s,
               env := (configureTransport i pin channel clockDivisor (createBuffer n s)).env } := by
  rw [(configureTransport_spec i pin channel clockDivisor (createBuffer n s)).PB_eq]
  exact configureTransport_eq i pin channel clockDivisor (createBuffer n s)

/-- Settles O28: INIT's two checks stand before both parts; behind them CFG's body runs on the fresh buffer, whose writes
touch neither the draws nor the histories. -/
theorem beginCreatesAndConfigures : Obligations.BeginCreatesAndConfigures := by
  unfold Obligations.BeginCreatesAndConfigures
  refine ⟨decodeCommand_begin, fun s n ⟨hf, hb⟩ => ?_⟩
  rw [exec_begin, accept_accepting hf hb]
  refine ⟨fun hinit => ?_, fun hinit hn => ?_, fun hinit hn => ?_⟩
  · rw [needFresh_of_init hinit]
  · rw [needFresh_of_countRange hinit hn]
  · rw [needFresh_of_fresh hinit hn]
    refine ⟨_, rfl, ?_, configureTransport_createBuffer_eq _ _ _ _ n s,
      configureTransport_env_events _ _ _ _ (createBuffer n s), clientKept_configureTransport _ _ _ _ (createBuffer n s)⟩
    rw [pixels_configureTransport, pixels_createBuffer]

/-! ## UPDATE (R116) -/

/-- Settles O29: behind check 5 the fresh frame is discarded or handed over by `ready`, and the peripheral's turns
complete it as they complete TX. -/
theorem updateEncodesAndTransmits : Obligations.UpdateEncodesAndTransmits := by
  unfold Obligations.UpdateEncodesAndTransmits
  refine ⟨decodeCommand_update, fun s ⟨hf, hb⟩ => ?_, completesFor_instr .update⟩
  rw [exec_update, accept_accepting hf hb]
  refine ⟨fun hinit => ?_, fun hinit hready => ?_, fun hinit hready => ?_⟩
  · rw [needInit_of_not_init hinit]
  · rw [needInit_of_init hinit, transmitFrame_unready (s := loadFrame s) hready]
    rfl
  · rw [needInit_of_init hinit, transmitFrame_ready (s := loadFrame s) hready]
    exact ⟨_, rfl, handsOver_startTransmission .update (loadFrame s)⟩

end Sys2Proof.Proofs
end

section
/-! PROOFS. Faults, order of checks, hold (60_exceptions.md): how an accepted command ends, said once for every row of
the opcode table, and what a faulted and a busy block do. -/

namespace Sys2Proof.Proofs

open Sys2Proof Sys2Proof.Machine Sys2Proof.Claims

/-! ## The fault register (R130) -/

/-- Of all effects only the taking of a fault writes the fault register. -/
theorem eq_faulted_of_effect {s t : State} {r : FaultReason} (hf : s.fault = none) (heffect : Effect s t)
    (ht : t.fault = some r) : t = faulted s r := by
  cases heffect with
  | faulted r' => rw [raiseFault_fault, Option.some.injEq] at ht; rw [ht, raiseFault_eq_faulted]
  | held => simp [hf] at ht
  | tookItem => simp [hf] at ht
  | created => simp [hf] at ht
  | wrote => simp [hf] at ht
  | answered => simp [hf] at ht
  | encoded => simp [hf] at ht
  | configured cmd p c k => simp [(configureTransport_spec cmd p c k s).fault_eq, hf] at ht
  | begun n p c k => simp [(configureTransport_spec (.begin n) p c k (createBuffer n s)).fault_eq, hf] at ht
  | sent c => rcases transmitFrame_cases c s with ⟨-, he⟩ | ⟨-, he⟩ <;> simp [he, hf] at ht
  | encodedSent c => rcases transmitFrame_cases c (loadFrame s) with ⟨-, he⟩ | ⟨-, he⟩ <;> simp [he, hf] at ht

theorem exec_ne_next_of_fault {i : Instr} {s t : State} (h : s.fault ≠ none) : exec i s ≠ .next t :=
  fun hexec => h (exec_effect hexec).1

theorem step_ne_next_of_fault {s t : State} (h : s.fault ≠ none) : step s ≠ .next t :=
  fun hstep => h (step_turn hstep).1

/-- Settles O33: an instruction and a step answer a next state only from a state without a fault, and the only effect
that writes the register writes nothing else. -/
theorem faultsAreStickyAndClean : Obligations.FaultsAreStickyAndClean := by
  unfold Obligations.FaultsAreStickyAndClean
  refine ⟨fun i s t r hexec ht => ?_, fun i s t r hr => ?_, fun s t r hr => ⟨?_, fun ⟨_, _, hf⟩ => ?_⟩⟩
  · obtain ⟨hf, heffect⟩ := exec_effect hexec
    exact eq_faulted_of_effect hf heffect ht
  · exact exec_ne_next_of_fault (by simp [hr])
  · exact step_ne_next_of_fault (by simp [hr])
  · simp [hr] at hf

/-! ## How an accepted command ends (R131, R134) -/

/-- The three ways an accepted command ends, each with the checks of R134 that lead to it: the first fault check that
applies, an answer at once, or the hand-over of a frame. -/
inductive Ending (i : Instr) (s : State) : State → Prop
  | faulted (r : FaultReason) (check : firstFault i s = some r) : Ending i s (faulted s r)
  | answered (t : State) (added : List Event) (st : Status) (d : BitVec 32)
      (passed : firstFault i s = none) (status : statusAtOnce i s = some st)
      (sound : t.fault = none) (free : t.busy = false) (events : t.env.events = s.env.events ++ added)
      (response : added.getLast? = some (.response i.core ⟨st, d⟩))
      (noTransmit : ∀ ch items b, .transmit ch items b ∉ added)
      (noInstall : s.env.next.configure = .error → ∀ ch a, .install ch a ∉ added) : Ending i s t
  | handedOver (t : State) (items : List Item)
      (passed : firstFault i s = none) (status : statusAtOnce i s = none)
      (sound : t.fault = none) (busy : t.busy = true)
      (events : t.env.events = s.env.events ++ [.transmit s.CFGR.channel items true]) : Ending i s t

section Endings

variable {i : Instr} {s u : State}

/-- Check 5 of R134, whatever stands behind it. -/
theorem ending_needInit {body : State → State} (huninit : s.init = false → firstFault i s = some .uninit)
    (hbody : s.init = true → Ending i s (body s)) : Ending i s (needInit body s) := by
  rcases needInit_cases body s with ⟨hinit, he⟩ | ⟨hinit, he⟩
  · rw [he]; exact hbody hinit
  · rw [he]; exact .faulted _ (huninit hinit)

/-- Check 5 of R134 where it is the command's only fault check. -/
theorem ending_needInit_alone {body : State → State} (hcheck : firstFault i s = uninitCheck s)
    (hbody : firstFault i s = none → Ending i s (body s)) : Ending i s (needInit body s) :=
  ending_needInit (fun hinit => by simp [hcheck, uninitCheck, hinit])
    fun hinit => hbody (by simp [hcheck, uninitCheck, hinit])

/-- Checks 4 and 6 of R134, in their order. -/
theorem ending_needFresh {n : Nat} {body : State → State} (hcheck : firstFault i s = freshCheck n s)
    (hbody : firstFault i s = none → Ending i s (body s)) : Ending i s (needFresh n body s) := by
  cases hinit : s.init with
  | true => rw [needFresh_of_init hinit]; exact .faulted _ (by simp [hcheck, freshCheck, hinit])
  | false =>
    rcases Nat.lt_or_ge Config.nmax n with hn | hn
    · rw [needFresh_of_countRange hinit hn]; exact .faulted _ (by simp [hcheck, freshCheck, hinit, hn])
    · rw [needFresh_of_fresh hinit hn]; exact hbody (by simp [hcheck, freshCheck, hinit, Nat.not_lt.2 hn])

/-- A response alone, after writes that touch neither the fault register, nor `busy`, nor the event history. -/
theorem ending_respond {st : Status} (d : BitVec 32) (hpassed : firstFault i s = none)
    (hstatus : statusAtOnce i s = some st) (hsound : u.fault = none) (hfree : u.busy = false)
    (hevents : u.env.events = s.env.events) : Ending i s (respond i.core st d u) :=
  .answered _ [.response i.core ⟨st, d⟩] st d hpassed hstatus hsound hfree (by rw [respond_env_events, hevents]) rfl
    (by simp) (by simp)

/-- CFG's body, after writes that touch neither the fault register, nor `busy`, nor what stands beside the block. -/
theorem ending_configureTransport (p c k : Byte) (hcore : i.core = i) (hpassed : firstFault i s = none)
    (hstatus : statusAtOnce i s = some (configureStatus s)) (hsound : u.fault = none) (hfree : u.busy = false)
    (henv : u.env = s.env) : Ending i s (configureTransport i p c k u) := by
  have hspec := configureTransport_spec i p c k u
  have hboth : bothOk u = bothOk s := by rw [bothOk, henv, bothOk]
  refine .answered _ (configureEvents u i p c k) _ 0 hpassed hstatus (hspec.fault_eq.trans hsound)
    (hspec.busy_eq.trans hfree) ?_ ?_ ?_ fun hconfigure => ?_
  · rw [configureTransport_env_events, henv]
  · simp only [configureEvents, hboth, hcore, List.getLast?_concat, configureStatus]
  · intro ch items b
    simp only [configureEvents]
    split <;> simp
  · simp [configureEvents, henv, hconfigure]

/-- TX's body behind the fault checks: check 9 of R134 answers at once, else the frame is handed over. -/
theorem ending_transmitFrame {c : Caller} (hcore : i.core = c.instr) (hpassed : firstFault i s = none)
    (hstatus : statusAtOnce i s = transmitCheck s) (hready : u.ready = s.ready) (hchannel : u.CFGR = s.CFGR)
    (hsound : u.fault = none) (hfree : u.busy = false) (hevents : u.env.events = s.env.events) :
    Ending i s (transmitFrame c u) := by
  rcases transmitFrame_cases c u with ⟨hr, he⟩ | ⟨hr, he⟩
  · rw [he]
    exact .handedOver _ u.IS hpassed (by simp [hstatus, transmitCheck, ← hready, hr]) hsound rfl
      (by rw [startTransmission_env_events, hevents, hchannel])
  · rw [he, ← hcore]
    exact ending_respond 0 hpassed (by simp [hstatus, transmitCheck, ← hready, hr]) hsound hfree hevents

end Endings

section Accepting

variable {s : State} (hacc : s.accepting)

include hacc

/-- An accepting block performs what stands behind acceptance. -/
theorem exists_ending_of_accept {i : Instr} {body : State → State} (hexec : exec i s = accept body s)
    (hbody : Ending i s (body s)) : ∃ t, exec i s = .next t ∧ Ending i s t :=
  ⟨_, hexec.trans (accept_accepting hacc.1 hacc.2), hbody⟩

/-- SETC, WRPX and the aliases: the shared write, answered `(OK, 0)` in range and out of it (R32). -/
theorem exists_ending_of_performWrite {i : Instr} {k : Int} {c : Color} (hexec : exec i s = performWrite i.core k c s)
    (hcheck : firstFault i s = uninitCheck s) (hstatus : statusAtOnce i s = some .ok) :
    ∃ t, exec i s = .next t ∧ Ending i s t :=
  exists_ending_of_accept hacc hexec <| ending_needInit_alone hcheck fun hpassed =>
    ending_respond 0 hpassed hstatus (by simp [hacc.1]) (by simp [hacc.2]) (by simp)

/-- A reserved opcode: check 3 of R134. -/
theorem exists_ending_of_illegalOpcode {i : Instr} (hexec : exec i s = illegalOpcode s)
    (hcheck : firstFault i s = some .illegalOp) : ∃ t, exec i s = .next t ∧ Ending i s t :=
  exists_ending_of_accept hacc hexec (.faulted .illegalOp hcheck)

/-- RDPX: check 5, then check 7, then the entry. -/
theorem exists_ending_rdpx (k : Int) : ∃ t, exec (.rdpx k) s = .next t ∧ Ending (.rdpx k) s t := by
  refine exists_ending_of_accept hacc (exec_rdpx s k) (ending_needInit ?_ fun hinit => ?_)
  · intro hinit; simp [firstFault, readCheck, hinit]
  · cases hin : inRange s.N k with
    | true =>
      have hrange := inRange_iff.1 hin
      rw [needInRange_of_inRange hin]
      exact ending_respond (i := .rdpx k) _ (by simp [firstFault, readCheck, hinit, hrange]) rfl hacc.1 hacc.2 rfl
    | false =>
      have hrange := inRange_eq_false_iff.1 hin
      rw [needInRange_of_out hin]
      exact .faulted _ (by simp only [firstFault, readCheck, hinit, if_true, if_neg hrange])

/-- TX: check 5, then check 8, then check 9 or the hand-over. -/
theorem exists_ending_tx : ∃ t, exec .tx s = .next t ∧ Ending .tx s t := by
  refine exists_ending_of_accept hacc (exec_tx s) (ending_needInit ?_ fun hinit => ?_)
  · intro hinit; simp [firstFault, frameCheck, hinit]
  · cases hvalid : s.isValid with
    | true =>
      rw [needFrame_of_valid hvalid]
      exact ending_transmitFrame rfl (by simp [firstFault, frameCheck, hinit, hvalid]) rfl rfl rfl hacc.1 hacc.2 rfl
    | false =>
      rw [needFrame_of_not_valid hvalid]
      exact .faulted _ (by simp [firstFault, frameCheck, hinit, hvalid])

/-- Every command and reserved opcode an accepting block performs has one of the endings. -/
theorem exec_ending {i : Instr} (hi : i.opcode ≠ none) : ∃ t, exec i s = .next t ∧ Ending i s t := by
  have ⟨hf, hb⟩ := hacc
  cases i with
  | init n =>
    exact exists_ending_of_accept hacc (exec_init s n) <| ending_needFresh rfl fun hpassed =>
      ending_respond (i := .init n) 0 hpassed rfl hf hb rfl
  | setc k c => exact exists_ending_of_performWrite hacc (exec_setc s k c) rfl rfl
  | rdpx k => exact exists_ending_rdpx hacc k
  | wrpx k c => exact exists_ending_of_performWrite hacc (exec_wrpx s k c) rfl rfl
  | count =>
    exact exists_ending_of_accept hacc (exec_count s) <| ending_needInit_alone rfl fun hpassed =>
      ending_respond (i := .count) _ hpassed rfl hf hb rfl
  | enc =>
    exact exists_ending_of_accept hacc (exec_enc s) <| ending_needInit_alone rfl fun hpassed =>
      ending_respond (i := .enc) _ hpassed rfl hf hb rfl
  | cfg p c k =>
    exact exists_ending_of_accept hacc (exec_cfg s p c k) (ending_configureTransport p c k rfl rfl rfl hf hb rfl)
  | tx => exact exists_ending_tx hacc
  | begin n =>
    exact exists_ending_of_accept hacc (exec_begin s n) <| ending_needFresh rfl fun hpassed =>
      ending_configureTransport _ _ _ rfl hpassed rfl hf hb rfl
  | update =>
    exact exists_ending_of_accept hacc (exec_update s) <| ending_needInit_alone rfl fun hpassed =>
      ending_transmitFrame rfl hpassed rfl rfl rfl hf hb rfl
  | setcv k v => exact exists_ending_of_performWrite hacc (exec_setcv s k v) rfl rfl
  | setled k c => exact exists_ending_of_performWrite hacc (exec_setled s k c) rfl rfl
  | reserved0 a d => exact exists_ending_of_illegalOpcode hacc (exec_reserved0 s a d) rfl
  | reservedB a d => exact exists_ending_of_illegalOpcode hacc (exec_reservedB s a d) rfl
  | reservedC a d => exact exists_ending_of_illegalOpcode hacc (exec_reservedC s a d) rfl
  | reservedD a d => exact exists_ending_of_illegalOpcode hacc (exec_reservedD s a d) rfl
  | reservedE a d => exact exists_ending_of_illegalOpcode hacc (exec_reservedE s a d) rfl
  | reservedF a d => exact exists_ending_of_illegalOpcode hacc (exec_reservedF s a d) rfl
  | t0 => exact absurd rfl hi
  | t1 => exact absurd rfl hi
  | trst => exact absurd rfl hi

/-- No symbol is performed by an accepting block: one is taken only while busy (R96). -/
theorem opcode_ne_none_of_exec {i : Instr} {t : State} (hexec : exec i s = .next t) : i.opcode ≠ none := by
  have hnot (it : Item) : takeItem it s ≠ .next t := fun htake =>
    absurd (hacc.2.symm.trans (takeItem_next htake).2.1) (by decide)
  cases i with
  | t0 => exact absurd hexec (hnot symT0)
  | t1 => exact absurd hexec (hnot symT1)
  | trst => exact absurd hexec (hnot symTRST)
  | _ => simp [Instr.opcode]

/-- Whatever an accepting block performs has one of the endings. -/
theorem ending_of_exec {i : Instr} {t : State} (hexec : exec i s = .next t) : Ending i s t := by
  obtain ⟨u, hu, hending⟩ := exec_ending hacc (opcode_ne_none_of_exec hacc hexec)
  rw [hexec, Host.Outcome.next.injEq] at hu
  exact hu ▸ hending

/-- UPDATE leaves the frame of the buffer in the item store, refused or not (R116). -/
theorem IS_of_exec_update {t : State} (hinit : s.init = true) (hexec : exec .update s = .next t) :
    t.IS = encodeFrame (pixels s) := by
  rw [exec_update, accept_accepting hacc.1 hacc.2, needInit_of_init hinit, Host.Outcome.next.injEq] at hexec
  subst hexec
  rcases transmitFrame_cases .update (loadFrame s) with ⟨-, he⟩ | ⟨-, he⟩ <;> rw [he] <;> rfl

end Accepting

/-! ## The order of the checks (R134) -/

section EndingFacts

variable {i : Instr} {s t : State}

theorem newEvents_of_append {added : List Event} (h : t.env.events = s.env.events ++ added) :
    newEvents s t = added := by
  rw [newEvents, h, List.drop_left]

theorem Ending.eq_faulted (h : Ending i s t) {r : FaultReason} (hr : firstFault i s = some r) :
    t = Claims.faulted s r := by
  cases h with
  | faulted r' check => rw [Option.some.inj (check.symm.trans hr)]
  | answered _ _ _ _ passed => simp [passed] at hr
  | handedOver _ _ passed => simp [passed] at hr

theorem Ending.fault_eq_none (h : Ending i s t) (hpassed : firstFault i s = none) : t.fault = none := by
  cases h with
  | faulted _ check => simp [hpassed] at check
  | answered _ _ _ _ _ _ sound => exact sound
  | handedOver _ _ _ _ sound => exact sound

theorem Ending.answered_of_status (h : Ending i s t) (hpassed : firstFault i s = none) {st : Status}
    (hst : statusAtOnce i s = some st) :
    ∃ d, t.env.events.getLast? = some (.response i.core ⟨st, d⟩) ∧ t.busy = false := by
  cases h with
  | faulted _ check => simp [hpassed] at check
  | answered _ added st' d _ status _ free events response =>
    obtain rfl : st' = st := Option.some.inj (status.symm.trans hst)
    exact ⟨d, by rw [events, List.getLast?_append, response]; rfl, free⟩
  | handedOver _ _ _ status => simp [hst] at status

theorem Ending.handedOver_of_no_status (h : Ending i s t) (hpassed : firstFault i s = none)
    (hst : statusAtOnce i s = none) :
    t.busy = true ∧ ∃ items, t.env.events = s.env.events ++ [.transmit s.CFGR.channel items true] := by
  cases h with
  | faulted _ check => simp [hpassed] at check
  | answered _ _ _ _ _ status => simp [hst] at status
  | handedOver _ items _ _ _ busy events => exact ⟨busy, items, events⟩

/-- A command with a status at once makes no transmit call, even where it faults. -/
theorem Ending.transmit_not_mem (h : Ending i s t) (hst : statusAtOnce i s ≠ none) (ch : Byte) (items : List Item)
    (b : Bool) : .transmit ch items b ∉ newEvents s t := by
  cases h with
  | faulted => simp [newEvents, Claims.faulted]
  | answered _ _ _ _ _ _ _ _ events _ noTransmit => rw [newEvents_of_append events]; exact noTransmit ch items b
  | handedOver _ _ _ status => exact absurd status hst

/-- Without an ok of configure there is no install call (check 10 of R134). -/
theorem Ending.install_not_mem (h : Ending i s t) (hconfigure : s.env.next.configure = .error) (ch : Byte)
    (a : Config.Answer) : .install ch a ∉ newEvents s t := by
  cases h with
  | faulted => simp [newEvents, Claims.faulted]
  | answered _ _ _ _ _ _ _ _ events _ _ noInstall =>
    rw [newEvents_of_append events]; exact noInstall hconfigure ch a
  | handedOver _ _ _ _ _ _ events => simp [newEvents_of_append events]

end EndingFacts

/-- Settles O35: a faulted block answers nothing and a busy one holds; every command an accepting block performs has one
of the endings, which say the rest, and the peripheral's turns complete a frame that was handed over. -/
theorem checksDecideOutcome : Obligations.ChecksDecideOutcome := by
  unfold Obligations.ChecksDecideOutcome
  refine ⟨fun i s t hf => exec_ne_next_of_fault hf, fun i s hi hf hb => exec_of_busy s i hi hf hb,
    fun i s hi hacc => ?_, fun i s t hacc hexec => ?_, completesFor_instr .tx, completesFor_instr .update⟩
  · obtain ⟨t, hexec, hending⟩ := exec_ending hacc hi
    exact ⟨t, hexec, fun r => hending.eq_faulted, fun hpassed =>
      ⟨hending.fault_eq_none hpassed, fun st => hending.answered_of_status hpassed,
        hending.handedOver_of_no_status hpassed⟩⟩
  · have hending := ending_of_exec hacc hexec
    refine ⟨hending.transmit_not_mem, hending.install_not_mem, fun hinit hi => ?_⟩
    subst hi
    exact IS_of_exec_update hacc hinit hexec

/-! ## The hold (R133) -/

/-- A step of a busy block leaves the client's program and the fault register alone: it is a turn of the peripheral. -/
theorem program_and_fault_of_busy_step {s t : State} (hb : s.busy = true) (hstep : step s = .next t) :
    t.env.program = s.env.program ∧ t.fault = none := by
  obtain ⟨hf, hturn⟩ := step_turn hstep
  cases hturn with
  | idle free => exact absurd (free.symm.trans hb) (by decide)
  | performed _ _ _ free => exact absurd (free.symm.trans hb) (by decide)
  | waited => exact ⟨rfl, hf⟩
  | failed => exact ⟨rfl, hf⟩
  | ended => exact ⟨rfl, hf⟩
  | emitted => exact ⟨rfl, hf⟩

/-- An accepting block performs the word at the command port, which leaves the client's program (R140). -/
theorem step_of_accepting {t : State} (hacc : t.accepting) {w : BitVec 68} {rest : List (BitVec 68)}
    (hport : t.env.program = w :: rest) :
    step t = exec (decodeCommand w) { t with env := { t.env with program := rest } } := by
  obtain ⟨hf, hb⟩ := hacc
  simp [step, fetch, hf, hb, fetchCommand, hport, popWord]

/-- Settles O36: a busy block holds every command and its steps leave the port alone, so the block the completion leaves
finds the held word there and accepts it. -/
theorem busyHoldsCommands : Obligations.BusyHoldsCommands := by
  unfold Obligations.BusyHoldsCommands
  refine ⟨fun i s hi hf hb => exec_of_busy s i hi hf hb, fun s t hb hstep => ?_⟩
  obtain ⟨hprogram, hf⟩ := program_and_fault_of_busy_step hb hstep
  exact ⟨hprogram, fun hfree w rest hport => step_of_accepting ⟨hf, hfree⟩ (hprogram.trans hport)⟩

end Sys2Proof.Proofs
end

section
/-! PROOFS. Decoder and encoder (30_encoding.md section 6): decoding gives back what was encoded, every command word is a
word of its own opcode, and the item words that name a symbol. -/

namespace Sys2Proof.Proofs

open Sys2Proof Sys2Proof.Machine Sys2Proof.Claims

/-! ## Operands survive their fields (R31, R57) -/

theorem toNat_ofNat_of_countFits {n : Nat} (h : countFits n = true) : (BitVec.ofNat 32 n).toNat = n :=
  (BitVec.toNat_ofNat n 32).trans (Nat.mod_eq_of_lt (of_decide_eq_true h))

theorem indexFits_iff {i : Int} : indexFits i = true ↔ -(2 ^ 31) ≤ i ∧ i < 2 ^ 31 := by
  simp [indexFits]

theorem sext32_ofInt_of_indexFits {i : Int} (h : indexFits i = true) : sext32 (BitVec.ofInt 32 i) = i := by
  obtain ⟨hlow, hhigh⟩ := indexFits_iff.1 h
  exact BitVec.toInt_ofInt_eq_self (by decide) hlow hhigh

theorem countFits_toNat (a : BitVec 32) : countFits a.toNat = true := decide_eq_true a.isLt

theorem indexFits_sext32 (a : BitVec 32) : indexFits (sext32 a) = true :=
  indexFits_iff.2 ⟨BitVec.le_toInt a, BitVec.toInt_lt⟩

/-- The three bytes of CFG are read from the places they were written to (R57). -/
theorem decodeCommand_encode_cfg (p ch k : Byte) :
    decodeCommand (commandWord 0x7 0 (0#8 ++ p ++ ch ++ k)) = .cfg p ch k := by
  have h := unpack_pack ⟨0#8, p, ch, k⟩
  simp only [Color.unpack, Color.pack, Color.mk.injEq] at h
  obtain ⟨-, hpin, hchannel, hdivisor⟩ := h
  rw [decodeCommand_cfg, hpin, hchannel, hdivisor]

/-- The word of a command row decodes to what the row is another spelling of, once its operands fit. -/
theorem decode_encode (i : Instr) (hwf : i.wf = true) : decode (encode i) = some i.core := by
  cases i with
  | init n => exact congrArg some ((decodeCommand_init _ 0).trans (congrArg _ (toNat_ofNat_of_countFits hwf)))
  | setc i c =>
    exact congrArg some ((decodeCommand_setc _ _).trans (congrArg₂ _ (sext32_ofInt_of_indexFits hwf) (unpack_pack c)))
  | rdpx i => exact congrArg some ((decodeCommand_rdpx _ 0).trans (congrArg _ (sext32_ofInt_of_indexFits hwf)))
  | wrpx i c =>
    exact congrArg some ((decodeCommand_wrpx _ _).trans (congrArg₂ _ (sext32_ofInt_of_indexFits hwf) (unpack_pack c)))
  | count => exact congrArg some (decodeCommand_count 0 0)
  | enc => exact congrArg some (decodeCommand_enc 0 0)
  | cfg p ch k => exact congrArg some (decodeCommand_encode_cfg p ch k)
  | tx => exact congrArg some (decodeCommand_tx 0 0)
  | begin n => exact congrArg some ((decodeCommand_begin _ 0).trans (congrArg _ (toNat_ofNat_of_countFits hwf)))
  | update => exact congrArg some (decodeCommand_update 0 0)
  | setcv i v => exact congrArg some ((decodeCommand_setc _ v).trans (congrArg₂ _ (sext32_ofInt_of_indexFits hwf) rfl))
  | setled i c =>
    exact congrArg some ((decodeCommand_setc _ _).trans (congrArg₂ _ (sext32_ofInt_of_indexFits hwf) (unpack_pack c)))
  | reserved0 a d => exact congrArg some (decodeCommand_reserved0 a d)
  | reservedB a d => exact congrArg some (decodeCommand_reservedB a d)
  | reservedC a d => exact congrArg some (decodeCommand_reservedC a d)
  | reservedD a d => exact congrArg some (decodeCommand_reservedD a d)
  | reservedE a d => exact congrArg some (decodeCommand_reservedE a d)
  | reservedF a d => exact congrArg some (decodeCommand_reservedF a d)
  | t0 => decide
  | t1 => decide
  | trst => decide

/-- Settles O1: each row's word has the row's opcode, and each field gives its operand back. -/
theorem decodeEncodeAgree : Obligations.DecodeEncodeAgree := by
  unfold Obligations.DecodeEncodeAgree
  exact decode_encode

/-- Settles O2: the decoder run on the words the spec writes out. -/
theorem sampleWordsDecode : Obligations.SampleWordsDecode := by
  unfold Obligations.SampleWordsDecode
  decide

/-! ## Every word is a word of its opcode (R56, R60) -/

/-- A command word is its three fields side by side. -/
theorem commandWord_fields (w : BitVec 68) : commandWord (opField w) (aField w) (dField w) = w := by
  have htop : opField w ++ aField w = w.extractLsb' 32 36 := BitVec.extractLsb'_append_extractLsb'_eq_extractLsb' rfl
  have hall : w.extractLsb' 32 36 ++ dField w = w.extractLsb' 0 68 :=
    BitVec.extractLsb'_append_extractLsb'_eq_extractLsb' rfl
  rw [commandWord, htop, hall, BitVec.extractLsb'_eq_self]

/-- The word `w` written by its fields, once its opcode is known. -/
theorem eq_commandWord {w : BitVec 68} {op : BitVec 4} (h : opField w = op) :
    w = commandWord op (aField w) (dField w) := by
  rw [← h, commandWord_fields]

/-- What the decoder gives for a word with opcode `op`: a well-formed row of that opcode, itself and no other
spelling of one. -/
def DecodesTo (op : BitVec 4) (i : Instr) : Prop := i.opcode = some op ∧ i.wf = true ∧ i.core = i

theorem decodesTo_decodeCommand (op : BitVec 4) (a d : BitVec 32) :
    DecodesTo op (decodeCommand (commandWord op a d)) := by
  have hop : op = 0x0 ∨ op = 0x1 ∨ op = 0x2 ∨ op = 0x3 ∨ op = 0x4 ∨ op = 0x5 ∨ op = 0x6 ∨ op = 0x7 ∨ op = 0x8 ∨
      op = 0x9 ∨ op = 0xA ∨ op = 0xB ∨ op = 0xC ∨ op = 0xD ∨ op = 0xE ∨ op = 0xF := by
    revert op; decide
  rcases hop with rfl | rfl | rfl | rfl | rfl | rfl | rfl | rfl | rfl | rfl | rfl | rfl | rfl | rfl | rfl | rfl
  · rw [decodeCommand_reserved0]; exact ⟨rfl, rfl, rfl⟩
  · rw [decodeCommand_init]; exact ⟨rfl, countFits_toNat a, rfl⟩
  · rw [decodeCommand_setc]; exact ⟨rfl, indexFits_sext32 a, rfl⟩
  · rw [decodeCommand_rdpx]; exact ⟨rfl, indexFits_sext32 a, rfl⟩
  · rw [decodeCommand_wrpx]; exact ⟨rfl, indexFits_sext32 a, rfl⟩
  · rw [decodeCommand_count]; exact ⟨rfl, rfl, rfl⟩
  · rw [decodeCommand_enc]; exact ⟨rfl, rfl, rfl⟩
  · rw [decodeCommand_cfg]; exact ⟨rfl, rfl, rfl⟩
  · rw [decodeCommand_tx]; exact ⟨rfl, rfl, rfl⟩
  · rw [decodeCommand_begin]; exact ⟨rfl, countFits_toNat a, rfl⟩
  · rw [decodeCommand_update]; exact ⟨rfl, rfl, rfl⟩
  · rw [decodeCommand_reservedB]; exact ⟨rfl, rfl, rfl⟩
  · rw [decodeCommand_reservedC]; exact ⟨rfl, rfl, rfl⟩
  · rw [decodeCommand_reservedD]; exact ⟨rfl, rfl, rfl⟩
  · rw [decodeCommand_reservedE]; exact ⟨rfl, rfl, rfl⟩
  · rw [decodeCommand_reservedF]; exact ⟨rfl, rfl, rfl⟩

/-- Settles O4: every word is a word of its opcode, and the sixteen opcodes decode to well-formed rows of their own. -/
theorem decodeByOpcodeAlone : Obligations.DecodeByOpcodeAlone := by
  unfold Obligations.DecodeByOpcodeAlone
  intro w
  have h := decodesTo_decodeCommand (opField w) (aField w) (dField w)
  rwa [commandWord_fields] at h

/-! ## The item words that name a symbol (R51, R52, R54) -/

theorem bit_ofBit (b : BitVec 1) : (Level.ofBit b).bit = b := by
  revert b; decide

/-- Every item word is the packed form of the item it stands for (R51). -/
theorem pack_unpackItem (w : BitVec 32) : (Item.unpack w).pack = w := by
  have hlow : w.extractLsb' 15 1 ++ w.extractLsb' 0 15 = w.extractLsb' 0 16 :=
    BitVec.extractLsb'_append_extractLsb'_eq_extractLsb' rfl
  have hhigh : w.extractLsb' 31 1 ++ w.extractLsb' 16 15 = w.extractLsb' 16 16 :=
    BitVec.extractLsb'_append_extractLsb'_eq_extractLsb' rfl
  have hall : w.extractLsb' 16 16 ++ w.extractLsb' 0 16 = w.extractLsb' 0 32 :=
    BitVec.extractLsb'_append_extractLsb'_eq_extractLsb' rfl
  simp only [Item.pack, Item.unpack, bit_ofBit, BitVec.ofNat_toNat, BitVec.setWidth_eq]
  rw [hhigh, BitVec.append_assoc, hlow]
  exact hall.trans BitVec.extractLsb'_eq_self

/-- An item whose durations fit has one word. -/
theorem unpack_eq_iff {it : Item} (h0 : it.duration0 ≤ 32767) (h1 : it.duration1 ≤ 32767) (w : BitVec 32) :
    Item.unpack w = it ↔ w = it.pack :=
  ⟨fun h => by rw [← h, pack_unpackItem], fun h => by rw [h, unpack_packItem it h0 h1]⟩

theorem symbolOf_eq_t0_iff {it : Item} : symbolOf it = some .t0 ↔ it = symT0 := by
  unfold symbolOf; split_ifs <;> simp_all

theorem symbolOf_eq_t1_iff {it : Item} : symbolOf it = some .t1 ↔ it = symT1 := by
  have h : symT0 ≠ symT1 := by decide
  unfold symbolOf; split_ifs <;> simp_all

theorem symbolOf_eq_trst_iff {it : Item} : symbolOf it = some .trst ↔ it = symTRST := by
  have h0 : symT0 ≠ symTRST := by decide
  have h1 : symT1 ≠ symTRST := by decide
  unfold symbolOf; split_ifs <;> simp_all

theorem symbolOf_eq_none_iff {it : Item} : symbolOf it = none ↔ it ≠ symT0 ∧ it ≠ symT1 ∧ it ≠ symTRST := by
  unfold symbolOf; split_ifs <;> simp_all

/-- Settles O5: an item word stands for a symbol exactly when it is the symbol's packed word. -/
theorem itemWordsDecode : Obligations.ItemWordsDecode := by
  unfold Obligations.ItemWordsDecode
  intro w
  have ht0 : Item.unpack w = symT0 ↔ w = 0x002D800F := unpack_eq_iff (by decide) (by decide) w
  have ht1 : Item.unpack w = symT1 ↔ w = 0x001E801E := unpack_eq_iff (by decide) (by decide) w
  have htrst : Item.unpack w = symTRST ↔ w = 0x000007D0 := unpack_eq_iff (by decide) (by decide) w
  simp only [decode, symbolOf_eq_t0_iff, symbolOf_eq_t1_iff, symbolOf_eq_trst_iff, symbolOf_eq_none_iff, ne_eq, ht0, ht1,
    htrst, and_self]

/-- Settles O8: the response is its status code over its data. -/
theorem responsePacking : Obligations.ResponsePacking := by
  unfold Obligations.ResponsePacking
  exact ⟨rfl, rfl, rfl, fun r => ⟨BitVec.extractLsb'_append_eq_left, BitVec.extractLsb'_append_eq_right⟩⟩

end Sys2Proof.Proofs
end

section
/-! PROOFS. The frame and its wave (41_pulse_encoder.md sections 2 and 5): the left inverse of the encoder, which pixel
decides which item, and the ticks of a frame, all read from the data bits it carries. -/

namespace Sys2Proof.Proofs

open Sys2Proof Sys2Proof.Machine Sys2Proof.Claims

/-! ## Decoding a pixel (R94) -/

/-- An item more doubles the value of the items before it and adds its bit. -/
theorem itemsValue_concat (items : List Item) (it : Item) :
    itemsValue (items ++ [it]) = Nat.bit (bitOf it) (itemsValue items) := by
  rw [itemsValue, List.foldl_append, Nat.bit_val]
  rfl

/-- The items of a value are its bits, the first one the most significant. -/
theorem testBit_itemsValue (items : List Item) {k : Nat} (hk : k < items.length) :
    (itemsValue items).testBit k = (items[items.length - 1 - k]?.map bitOf).getD false := by
  induction items using List.reverseRecOn generalizing k with
  | nil => simp at hk
  | append_singleton items it ih =>
    rw [itemsValue_concat]
    cases k with
    | zero => simp
    | succ k =>
      rw [List.length_append, List.length_singleton] at hk ⊢
      rw [Nat.testBit_bit_succ, ih (by omega), List.getElem?_append_left (by omega)]
      congr 3
      omega

/-- The number of a pixel's items is the pixel's wire word (R47, R84, R94). -/
theorem ofNat_itemsValue_encPixel (c : Color) : BitVec.ofNat 32 (itemsValue (encPixel c)) = wireWord c := by
  refine BitVec.eq_of_getLsbD_eq fun k hk => ?_
  rw [BitVec.getLsbD_ofNat, decide_eq_true hk, Bool.true_and, testBit_itemsValue _ (by rwa [length_encPixel]),
    length_encPixel, getElem?_encPixel c (by omega), show 31 - (32 - 1 - k) = k by omega]
  simp

/-- Unpacking the wire word gives the Color with red and green exchanged (R47). -/
theorem unpack_wireWord (c : Color) : Color.unpack (wireWord c) = { c with r := c.g, g := c.r } :=
  unpack_pack { c with r := c.g, g := c.r }

theorem decodePixel_encPixel (c : Color) : decodePixel (encPixel c) = c := by
  have h := unpack_wireWord c
  simp only [Color.unpack, Color.mk.injEq] at h
  obtain ⟨hg, hr, hb, hw⟩ := h
  simp only [decodePixel, ofNat_itemsValue_encPixel, hg, hr, hb, hw]

/-! ## Decoding a frame (R94) -/

/-- Decoding a block of 32 items in front of a frame gives the block's pixel first. -/
theorem decodeFrame_append {block rest : List Item} (hblock : block.length = 32) (hrest : rest ≠ []) :
    decodeFrame (block ++ rest) = decodePixel block :: decodeFrame rest := by
  have hpos := List.length_pos_iff.2 hrest
  have hcount : ((block ++ rest).length - 1) / 32 = (rest.length - 1) / 32 + 1 := by
    rw [List.length_append, hblock]; omega
  rw [decodeFrame, hcount, List.range_succ_eq_map, List.map_cons, List.map_map]
  congr 1
  · rw [Nat.mul_zero, List.drop_zero, ← hblock, List.take_left]
  · refine List.map_congr_left fun p _ => ?_
    rw [Function.comp_apply, Nat.mul_succ, Nat.add_comm, ← List.drop_drop, ← hblock, List.drop_left]

/-- The decoder of a frame is a left inverse of the encoder. -/
theorem decodeFrame_encodeFrame (pb : List Color) : decodeFrame (encodeFrame pb) = pb := by
  induction pb with
  | nil => rfl
  | cons c pb ih =>
    rw [encodeFrame_cons, decodeFrame_append (length_encPixel c) (by simp [encodeFrame]), decodePixel_encPixel, ih]

/-- Settles O15, by induction on the buffer: a pixel's 32 items are the bits of its wire word. -/
theorem frameDecodes : Obligations.FrameDecodes := by
  unfold Obligations.FrameDecodes
  exact decodeFrame_encodeFrame

/-! ## Equal frames, and what one pixel decides -/

/-- A pixel decides no item outside its own 32. -/
theorem getElem?_encodeFrame_set (pb : List Color) {p j : Nat} (c : Color) (hj : j / 32 ≠ p) :
    (encodeFrame (pb.set p c))[j]? = (encodeFrame pb)[j]? := by
  have hlen : ((pb.set p c).flatMap encPixel).length = (pb.flatMap encPixel).length := by
    simp only [length_flatMap_encPixel, List.length_set]
  rw [encodeFrame, encodeFrame, List.getElem?_append, List.getElem?_append, hlen,
    getElem?_flatMap_of_length length_encPixel (by decide), getElem?_flatMap_of_length length_encPixel (by decide),
    List.getElem?_set_ne (Ne.symm hj)]

/-- Settles O14: the encoder has a left inverse, and an item is read from its own pixel. -/
theorem frameInjectiveAndLocal : Obligations.FrameInjectiveAndLocal := by
  unfold Obligations.FrameInjectiveAndLocal
  have hinj : Function.Injective encodeFrame := Function.LeftInverse.injective decodeFrame_encodeFrame
  exact ⟨fun pb pb' h => hinj h, fun pb p c j hj => getElem?_encodeFrame_set pb c hj⟩

/-! ## The data bits of a frame (R84, R85) -/

/-- The bits of a pixel in the order they are sent. -/
def pixelBits (c : Color) : List Bool := (wireBytes c).flatMap byteBits

/-- The bits of a buffer in the order they are sent. -/
def dataBits (pb : List Color) : List Bool := pb.flatMap pixelBits

/-- A frame is the symbols of its data bits and the reset item. -/
theorem encodeFrame_eq_map_sym (pb : List Color) : encodeFrame pb = (dataBits pb).map sym ++ [symTRST] := by
  rw [encodeFrame, dataBits, List.map_flatMap]
  rfl

@[simp] theorem length_pixelBits (c : Color) : (pixelBits c).length = 32 := rfl

theorem length_dataBits (pb : List Color) : (dataBits pb).length = 32 * pb.length := by
  simp [dataBits, Nat.mul_comm]

theorem getElem?_pixelBits (c : Color) {q : Nat} (hq : q < 32) :
    (pixelBits c)[q]? = some ((wireWord c).getLsbD (31 - q)) := by
  have h : (pixelBits c)[q]?.map sym = some (sym ((wireWord c).getLsbD (31 - q))) := by
    rw [← List.getElem?_map]; exact getElem?_encPixel c hq
  obtain ⟨b, hb, hsym⟩ := Option.map_eq_some_iff.1 h
  rw [hb, sym_injective hsym]

/-- The data bit of a position, by the wire word of its pixel (R53). -/
theorem getElem?_dataBits (pb : List Color) {j : Nat} (hj : j < 32 * pb.length) :
    ∃ c, pb[j / 32]? = some c ∧ (dataBits pb)[j]? = some ((wireWord c).getLsbD (31 - j % 32)) := by
  have hp : j / 32 < pb.length := Nat.div_lt_of_lt_mul hj
  refine ⟨pb[j / 32], List.getElem?_eq_getElem hp, ?_⟩
  rw [dataBits, getElem?_flatMap_of_length length_pixelBits (by decide), List.getElem?_eq_getElem hp, Option.bind_some,
    getElem?_pixelBits _ (Nat.mod_lt j (by decide))]

/-- The bits of a pixel are those of its wire word, from the top bit down (R47). -/
theorem pixelBits_eq_map (c : Color) : pixelBits c = (List.range 32).reverse.map (wireWord c).getLsbD := by
  refine List.ext_getElem? fun q => ?_
  rcases Nat.lt_or_ge q 32 with hq | hq
  · rw [getElem?_pixelBits c hq, List.getElem?_map, List.getElem?_reverse (by simpa using hq)]
    simp only [List.length_range]
    rw [List.getElem?_range (by omega)]
    rfl
  · rw [List.getElem?_eq_none (by simpa using hq), List.getElem?_eq_none (by simpa using hq)]

/-- The one-bits of the wire words are the ones among the data bits (R92). -/
theorem count_true_dataBits (pb : List Color) : (dataBits pb).count true = oneBits pb := by
  rw [dataBits, List.count_flatMap, oneBits]
  congr 1
  refine List.map_congr_left fun c _ => ?_
  rw [Function.comp_apply, pixelBits_eq_map, List.count, List.countP_map, List.countP_reverse]
  congr 1
  funext k
  simp

/-! ## The wave of a frame (R90 to R93) -/

/-- The wave of a data bit. -/
def bitWave (b : Bool) : List Level := waveItem (sym b)

/-- The wave of a frame is the waves of its data bits and the reset ticks. -/
theorem wave_encodeFrame (pb : List Color) :
    wave (encodeFrame pb) = (dataBits pb).flatMap bitWave ++ List.replicate 2000 .L := by
  have hreset : wave [symTRST] = List.replicate 2000 .L := by
    rw [wave, List.flatMap_singleton]; exact waveItem_of_duration1_zero .L .L 2000
  rw [encodeFrame_eq_map_sym, wave_append, hreset, wave, List.flatMap_map]
  rfl

theorem length_bitWave (b : Bool) : (bitWave b).length = 60 := by
  cases b <;> exact length_waveItem _

theorem count_H_bitWave (b : Bool) : (bitWave b).count .H = 15 + 15 * b.toNat := by
  cases b <;> decide

/-- A data bit is a cell of 60 ticks: high for 15, high for 15 more when it is 1, low after (R93). -/
theorem getElem?_bitWave (b : Bool) {t : Nat} (ht : t < 60) :
    (bitWave b)[t]? = some (if t < 15 then .H else if t < 30 then (if b then .H else .L) else .L) := by
  revert t
  cases b <;> decide

theorem length_flatMap_bitWave (bits : List Bool) : (bits.flatMap bitWave).length = 60 * bits.length := by
  simp [length_bitWave, Nat.mul_comm]

theorem count_H_flatMap_bitWave (bits : List Bool) :
    (bits.flatMap bitWave).count .H = 15 * bits.length + 15 * bits.count true := by
  induction bits with
  | nil => rfl
  | cons b bits ih =>
    rw [List.flatMap_cons, List.count_append, ih, count_H_bitWave, List.length_cons, List.count_cons]
    cases b <;> simp <;> omega

/-- A line has as many ticks as it has high and low ones. -/
theorem count_H_add_count_L (ticks : List Level) : ticks.count .H + ticks.count .L = ticks.length := by
  induction ticks with
  | nil => rfl
  | cons l ticks ih =>
    rw [List.count_cons, List.count_cons, List.length_cons, ← ih]
    cases l <;> simp <;> omega

theorem length_wave_encodeFrame (pb : List Color) : (wave (encodeFrame pb)).length = 1920 * pb.length + 2000 := by
  rw [wave_encodeFrame, List.length_append, length_flatMap_bitWave, length_dataBits, List.length_replicate]
  omega

theorem count_H_wave_encodeFrame (pb : List Color) :
    (wave (encodeFrame pb)).count .H = 480 * pb.length + 15 * oneBits pb := by
  have hreset : (List.replicate 2000 Level.L).count .H = 0 := by
    rw [List.count_replicate, if_neg (by decide)]
  rw [wave_encodeFrame, List.count_append, hreset, count_H_flatMap_bitWave, length_dataBits, count_true_dataBits]
  omega

/-- Settles O17: 60 ticks and 15 high ones for each data bit, 15 more for each one, and 2000 low ticks; the rest is low. -/
theorem frameTicks : Obligations.FrameTicks := by
  unfold Obligations.FrameTicks
  refine fun pb => ⟨length_wave_encodeFrame pb, count_H_wave_encodeFrame pb, ?_⟩
  have hall := count_H_add_count_L (wave (encodeFrame pb))
  rw [length_wave_encodeFrame, count_H_wave_encodeFrame] at hall
  omega

/-- A tick of a frame's data is a tick of its bit's cell. -/
theorem getElem?_wave_data (pb : List Color) {j t : Nat} (hj : j < 32 * pb.length) (ht : t < 60) :
    (wave (encodeFrame pb))[60 * j + t]? = (dataBits pb)[j]?.bind (fun b => (bitWave b)[t]?) := by
  have hlen : 60 * j + t < ((dataBits pb).flatMap bitWave).length := by
    rw [length_flatMap_bitWave, length_dataBits]; omega
  rw [wave_encodeFrame, List.getElem?_append_left hlen, getElem?_flatMap_of_length length_bitWave (by decide),
    show (60 * j + t) / 60 = j by omega, show (60 * j + t) % 60 = t by omega]

theorem getElem?_wave_reset (pb : List Color) {t : Nat} (ht : t < 2000) :
    (wave (encodeFrame pb))[1920 * pb.length + t]? = some .L := by
  have hlen : ((dataBits pb).flatMap bitWave).length = 1920 * pb.length := by
    rw [length_flatMap_bitWave, length_dataBits]; omega
  rw [wave_encodeFrame, List.getElem?_append_right (by omega), hlen, Nat.add_sub_cancel_left,
    List.getElem?_replicate_of_lt ht]

/-- Settles O18: tick `60 * j + t` is tick `t` of the cell of bit `j`, and the reset ticks follow the cells. -/
theorem cellStructure : Obligations.CellStructure := by
  unfold Obligations.CellStructure
  refine fun pb => ⟨fun j t hj ht => ?_, fun t ht => getElem?_wave_reset pb ht⟩
  obtain ⟨c, hc, hbit⟩ := getElem?_dataBits pb hj
  refine ⟨c, hc, ?_⟩
  rw [getElem?_wave_data pb hj ht, hbit, Option.bind_some, getElem?_bitWave _ ht]

end Sys2Proof.Proofs
end

section
/-! PROOFS. The invariant of the reachable states (10_state.md section 12): each effect of a command on an accepting block
and each turn of the peripheral keeps it. -/

namespace Sys2Proof.Proofs

open Sys2Proof Sys2Proof.Machine Sys2Proof.Claims

/-! ## Reset -/

/-- Settles O52: the fields of the reset state. -/
theorem resetValues : Obligations.ResetValues := by
  unfold Obligations.ResetValues
  exact ⟨rfl, rfl, rfl, rfl, rfl, rfl, rfl, rfl, rfl, fun _ => rfl⟩

/-- Settles O53: at reset the buffer lists nothing and every flag the other points speak of is false. -/
theorem invariantAtReset : Obligations.InvariantAtReset := by
  unfold Obligations.InvariantAtReset
  exact {
    count_le := fun _ => Nat.zero_le _
    buffer_wf := reset_wf
    buffer_within := fun _ hx => absurd hx List.not_mem_nil
    frame_init := fun hvalid => absurd hvalid (by decide)
    frame_shape := fun hvalid => absurd hvalid (by decide)
    busy_valid := fun hbusy => absurd hbusy (by decide)
    busy_ready := fun hbusy => absurd hbusy (by decide)
    busy_sound := fun hbusy => absurd hbusy (by decide)
    busy_pos := fun hbusy => absurd hbusy (by decide)
    busy_emitted := fun hbusy => absurd hbusy (by decide)
    ready_held := fun hready => absurd hready (by decide)
    held_low := fun hheld => absurd hheld (by decide) }

/-! ## Frames and low lines -/

theorem frameShape_encodeFrame (pb : List Color) : FrameShape pb.length (encodeFrame pb) := by
  obtain ⟨-, hshape, -⟩ := frameOfBuffer
  obtain ⟨hlength, hlast, hdata, -⟩ := hshape pb
  exact ⟨hlength, hlast, hdata⟩

/-- A valid frame ends its wave low: its last item is the reset item. -/
theorem getLast?_wave_of_frameShape {n : Nat} {items : List Item} (h : FrameShape n items) :
    (wave items).getLast? = some .L := by
  have hitems : items = items.take (32 * n) ++ [symTRST] := by
    conv_lhs => rw [← List.take_of_length_le h.length_eq.le, List.take_add_one, h.last_item]
    rfl
  rw [hitems]
  exact getLast?_wave_concat_symTRST _

theorem getLast?_append_low {line ticks : List Level} (h : ticks.getLast? = some .L) :
    (line ++ ticks).getLast? = some .L := by
  rw [List.getLast?_append, h]; rfl

/-- Idle ticks after a low tick leave a low tick last. -/
theorem getLast?_append_idle {line : List Level} (h : line.getLast? = some .L) (n : Nat) :
    (line ++ List.replicate n Level.L).getLast? = some .L := by
  rw [List.getLast?_append, h, List.getLast?_replicate]
  split <;> rfl

/-! ## A block that is free -/

section Free

variable {s : State}

/-- What the invariant says of a transmission in flight is said of no free block. -/
theorem elim_busy (free : s.busy = false) {p : Prop} (hb : s.busy = true) : p :=
  absurd (free.symm.trans hb) (by decide)

variable (h : Inv s)

include h

theorem inv_popWord : Inv (popWord s) := { h with }

theorem inv_respond (cmd : Instr) (st : Status) (d : BitVec 32) : Inv (respond cmd st d s) := { h with }

theorem inv_storePixel (i : Int) (c : Color) : Inv (storePixel i c s) := by
  cases hin : inRange s.N i with
  | true =>
    rw [storePixel_of_inRange hin]
    exact { h with
      buffer_wf := writePixel_wf h.buffer_wf _ c
      buffer_within := writePixel_within h.buffer_within (pixelIndex_lt hin) c }
  | false => rw [storePixel_out hin]; exact h

variable (free : s.busy = false)

include free

theorem inv_raiseFault (r : FaultReason) : Inv (raiseFault r s) :=
  { h with busy_sound := elim_busy free }

/-- A new buffer meets the invariant: without one before, no frame is valid. -/
theorem inv_createBuffer {n : Nat} (fresh : s.init = false) (fits : n ≤ Config.nmax) : Inv (createBuffer n s) :=
  { h with
    count_le := fun _ => fits
    buffer_wf := Memory.wf_nil
    buffer_within := fun _ hx => absurd hx List.not_mem_nil
    frame_init := fun _ => rfl
    frame_shape := fun hvalid => absurd (fresh.symm.trans (h.frame_init hvalid)) (by decide)
    busy_pos := elim_busy free }

theorem inv_loadFrame (init : s.init = true) : Inv (loadFrame s) :=
  { h with
    frame_init := fun _ => init
    frame_shape := fun _ => length_pixels s ▸ frameShape_encodeFrame (pixels s)
    busy_valid := fun _ => rfl
    busy_emitted := elim_busy free }

/-- CFG's body sets `ready` only where it holds the line, and the hold ends in a low tick. -/
theorem inv_configureTransport (i : Instr) (p c k : Byte) : Inv (configureTransport i p c k s) := by
  have hspec := configureTransport_spec i p c k s
  have hfree := hspec.busy_eq.trans free
  exact {
    count_le := by rw [hspec.init_eq, hspec.N_eq]; exact h.count_le
    buffer_wf := by rw [hspec.PB_eq]; exact h.buffer_wf
    buffer_within := by rw [hspec.N_eq, hspec.PB_eq]; exact h.buffer_within
    frame_init := by rw [hspec.isValid_eq, hspec.init_eq]; exact h.frame_init
    frame_shape := by rw [hspec.isValid_eq, hspec.N_eq, hspec.IS_eq]; exact h.frame_shape
    busy_valid := elim_busy hfree
    busy_ready := elim_busy hfree
    busy_sound := elim_busy hfree
    busy_pos := elim_busy hfree
    busy_emitted := elim_busy hfree
    ready_held := fun hready => by rw [hspec.held_eq, hready, Bool.or_true]
    held_low := fun hheld => by
      rw [hspec.line_eq]
      cases hs : s.env.lineHeld with
      | true => rw [Bool.true_or, if_pos rfl, List.append_nil]; exact h.held_low hs
      | false =>
        rw [hspec.held_eq, hs, Bool.false_or] at hheld
        rw [hheld, if_neg (by decide)]
        exact getLast?_append_low (List.getLast?_concat) }

/-- TX's body starts from a valid frame and, configured, from a low line; unconfigured it discards the frame. -/
theorem inv_transmitFrame (sound : s.fault = none) (valid : s.isValid = true) (c : Caller) :
    Inv (transmitFrame c s) := by
  rcases transmitFrame_cases c s with ⟨ready, he⟩ | ⟨-, he⟩ <;> rw [he]
  · exact { h with
      busy_valid := fun _ => valid
      busy_ready := fun _ => ready
      busy_sound := fun _ => sound
      busy_pos := fun _ => Nat.zero_le _
      busy_emitted := fun _ => rfl
      held_low := fun hheld => getLast?_append_idle (h.held_low hheld) _ }
  · exact { h with
      frame_init := fun hvalid => absurd hvalid Bool.false_ne_true
      frame_shape := fun hvalid => absurd hvalid Bool.false_ne_true
      busy_valid := elim_busy free }

/-- Whatever an instruction does to an accepting block keeps the invariant. -/
theorem inv_of_effect (sound : s.fault = none) {t : State} (heffect : Effect s t) : Inv t := by
  cases heffect with
  | held => exact h
  | tookItem it busy => exact elim_busy free busy
  | faulted r => exact inv_raiseFault h free r
  | created n _ fresh fits => exact inv_respond (inv_createBuffer h free fresh fits) _ _ _
  | wrote cmd i c => exact inv_respond (inv_storePixel h i c) _ _ _
  | answered cmd d => exact inv_respond h _ _ _
  | encoded d _ init => exact inv_respond (inv_loadFrame h free init) _ _ _
  | configured cmd p c k => exact inv_configureTransport h free cmd p c k
  | begun n p c k _ fresh fits => exact inv_configureTransport (inv_createBuffer h free fresh fits) free _ p c k
  | sent c _ _ valid => exact inv_transmitFrame h free sound valid c
  | encodedSent c _ init =>
    exact inv_transmitFrame (s := loadFrame s) (inv_loadFrame h free init) free sound rfl c

end Free

/-! ## A frame in flight -/

section Flight

variable {s : State} (h : Inv s)

include h

theorem inv_redraw : Inv (redraw s) := { h with }

/-- A completion that leaves the line low keeps the invariant. -/
theorem inv_completeTransmission {a : Config.Answer}
    (hlow : (s.env.line ++ carried a s).getLast? = some .L) :
    Inv (completeTransmission a s) :=
  { h with
    frame_init := fun hvalid => absurd hvalid Bool.false_ne_true
    frame_shape := fun hvalid => absurd hvalid Bool.false_ne_true
    busy_valid := elim_busy rfl
    busy_ready := elim_busy rfl
    busy_sound := elim_busy rfl
    busy_pos := elim_busy rfl
    busy_emitted := elim_busy rfl
    held_low := fun _ => hlow }

variable (busy : s.busy = true)

include busy

/-- In a transmission the line is held, and it is low until the completion. -/
theorem line_low_of_busy : s.env.line.getLast? = some .L :=
  h.held_low (h.ready_held (h.busy_ready busy))

/-- When no item is left the whole frame has been handed over (R97). -/
theorem emitted_eq_IS (all : s.IS[s.pos]? = none) : s.env.emitted = s.IS := by
  rw [h.busy_emitted busy, List.take_of_length_le (List.getElem?_eq_none_iff.1 all)]

/-- After an ok the line carries the wave of the whole frame, which ends in the reset ticks. -/
theorem inv_complete_ok (all : s.IS[s.pos]? = none) : Inv (completeTransmission .ok s) := by
  refine inv_completeTransmission h (getLast?_append_low ?_)
  rw [carried, emitted_eq_IS h busy all]
  exact getLast?_wave_of_frameShape (h.frame_shape (h.busy_valid busy))

/-- The generator step takes the item at `pos`, so what has been emitted is again the frame up to `pos`. -/
theorem inv_emitItem {it : Item} (item : s.IS[s.pos]? = some it) : Inv (emitItem it s) :=
  { h with
    busy_pos := fun _ => by
      have hlt := (List.getElem?_eq_some_iff.1 item).1
      have hlen := (h.frame_shape (h.busy_valid busy)).length_eq
      rw [emitItem_pos, emitItem_N]
      omega
    busy_emitted := fun _ => by
      rw [emitItem_env_emitted, emitItem_IS, emitItem_pos, List.take_add_one, item, h.busy_emitted busy]
      rfl }

end Flight

/-! ## Every step -/

theorem inv_of_turn {s t : State} (h : Inv s) (sound : s.fault = none) (hturn : Turn s t) : Inv t := by
  cases hturn with
  | idle => exact h
  | performed w rest _ free port run =>
    exact inv_of_effect (inv_popWord h) free sound (exec_effect run).2
  | waited => exact inv_redraw h
  | failed busy =>
    exact inv_completeTransmission h (getLast?_append_returnLow (line_low_of_busy h busy) _)
  | ended busy _ all => exact inv_complete_ok h busy all
  | emitted it busy _ item => exact inv_emitItem h busy item

theorem inv_of_step {s t : State} (h : Inv s) (hstep : step s = .next t) : Inv t := by
  obtain ⟨sound, hturn⟩ := step_turn hstep
  exact inv_of_turn h sound hturn

/-- Settles O54: a free block performs an effect that keeps the invariant, and a busy one takes a turn of the peripheral
that does. -/
theorem stepKeepsInvariant : Obligations.StepKeepsInvariant := by
  unfold Obligations.StepKeepsInvariant
  exact fun _ _ => inv_of_step

/-- Settles O55: every item has been emitted, so the ticks added are the wave of the frame, and the line stays held. -/
theorem successPutsWaveOnLine : Obligations.SuccessPutsWaveOnLine := by
  unfold Obligations.SuccessPutsWaveOnLine
  intro s h busy hmove hpos
  have all : s.IS[s.pos]? = none := List.getElem?_eq_none hpos.ge
  have hheld : s.env.lineHeld = true := h.ready_held (h.busy_ready busy)
  refine ⟨line_low_of_busy h busy, _, step_of_go_end (h.busy_sound busy) busy hmove all, ?_, ?_, rfl, fun k => ?_⟩
  · rw [completeTransmission_env_line, carried, emitted_eq_IS h busy all]
  · exact (inv_complete_ok h busy all).held_low hheld
  · rw [idleLine, completeTransmission_env_lineHeld, if_pos hheld]

end Sys2Proof.Proofs
end

section
/-! PROOFS. Steps (10_state.md sections 2 and 10, 42_transport.md section 2): what no step takes back, what stands still
while a frame is in flight, and that the stepwise transmission carries the one-shot frame. -/

namespace Sys2Proof.Proofs

open Sys2Proof Sys2Proof.Machine Sys2Proof.Claims

/-! ## The step by name (R96, R130, R140) -/

theorem step_of_fault {s : State} {r : FaultReason} (h : s.fault = some r) : step s = .fault (.blockFaulted r) := by
  simp only [step, fetch, h]

/-- Settles O34: check 1 of R134 stands first in every instruction and in the fetch. -/
theorem faultedBlockStopsByName : Obligations.FaultedBlockStopsByName := by
  unfold Obligations.FaultedBlockStopsByName
  exact ⟨fun i s r hr => exec_of_fault s i hr, fun s r hr => step_of_fault hr⟩

/-- With no word at the command port the block waits (R151). -/
theorem step_of_idle {s : State} (hacc : s.accepting) (hport : s.env.program = []) : step s = .next s := by
  obtain ⟨hf, hb⟩ := hacc
  simp [step, fetch, hf, hb, fetchCommand, hport]

/-- Settles O50: the word at the port is accepted and performed, and a symbol at `pos` is emitted, which is what performing
its row does. -/
theorem stepRunsDecoded : Obligations.StepRunsDecoded := by
  unfold Obligations.StepRunsDecoded
  refine ⟨fun s w rest hacc => step_of_accepting hacc, fun s w i hf hb hmove hitem hdecode => ?_,
    fun s hacc => step_of_idle hacc⟩
  have hpos : s.pos < s.IS.length := (List.getElem?_eq_some_iff.1 hitem).1
  rw [step_of_go_item hf hb hmove hitem, exec_symbolOf hdecode, takeItem_enabled _ hf hb hpos]

/-! ## What no step takes back -/

/-- From `s` to `t` the histories have grown and a held line is held (R24, R27). -/
structure Extends (s t : State) : Prop where
  held : s.env.lineHeld = true → t.env.lineHeld = true
  line : s.env.line <+: t.env.line
  events : s.env.events <+: t.env.events

theorem Extends.of_append {s t : State} {ticks : List Level} {added : List Event}
    (held : s.env.lineHeld = true → t.env.lineHeld = true) (line : t.env.line = s.env.line ++ ticks)
    (events : t.env.events = s.env.events ++ added) : Extends s t :=
  ⟨held, ⟨ticks, line.symm⟩, ⟨added, events.symm⟩⟩

/-- Nothing beside the block changed but for events added. -/
theorem Extends.of_events {s t : State} {added : List Event} (held : t.env.lineHeld = s.env.lineHeld)
    (line : t.env.line = s.env.line) (events : t.env.events = s.env.events ++ added) : Extends s t :=
  .of_append (ticks := []) (fun h => held.trans h) (line.trans (List.append_nil _).symm) events

theorem Extends.of_same {s t : State} (held : t.env.lineHeld = s.env.lineHeld) (line : t.env.line = s.env.line)
    (events : t.env.events = s.env.events) : Extends s t :=
  .of_events held line (events.trans (List.append_nil _).symm)

theorem extends_configureTransport (i : Instr) (p c k : Byte) (s : State) :
    Extends s (configureTransport i p c k s) := by
  have hspec := configureTransport_spec i p c k s
  exact .of_append (fun hheld => by rw [hspec.held_eq, hheld, Bool.true_or]) hspec.line_eq
    (configureTransport_env_events i p c k s)

theorem extends_transmitFrame (c : Caller) (s : State) : Extends s (transmitFrame c s) := by
  rcases transmitFrame_cases c s with ⟨-, he⟩ | ⟨-, he⟩ <;> rw [he]
  · exact .of_append id rfl rfl
  · exact .of_events rfl rfl rfl

theorem extends_of_effect {s t : State} (heffect : Effect s t) : Extends s t := by
  cases heffect with
  | held => exact .of_same rfl rfl rfl
  | tookItem it => exact .of_same rfl rfl rfl
  | faulted r => exact .of_same rfl rfl rfl
  | created n => exact .of_events rfl rfl rfl
  | wrote cmd i c => exact .of_events (by simp) (by simp) (by rw [respond_env_events, storePixel_env])
  | answered cmd d => exact .of_events rfl rfl rfl
  | encoded d => exact .of_events rfl rfl rfl
  | configured cmd p c k => exact extends_configureTransport cmd p c k s
  | begun n p c k => exact { extends_configureTransport _ p c k (createBuffer n s) with }
  | sent c => exact extends_transmitFrame c s
  | encodedSent c => exact { extends_transmitFrame c (loadFrame s) with }

theorem extends_of_step {s t : State} (hstep : step s = .next t) : Extends s t := by
  obtain ⟨-, hturn⟩ := step_turn hstep
  cases hturn with
  | idle => exact .of_same rfl rfl rfl
  | performed w rest _ _ _ run => exact { extends_of_effect (exec_effect run).2 with }
  | waited => exact .of_same rfl rfl rfl
  | failed => exact .of_append id rfl (completeTransmission_effect .error s).2
  | ended => exact .of_append id rfl (completeTransmission_effect .ok s).2
  | emitted it => exact .of_same rfl rfl rfl

/-- A configuration whose calls both answered ok holds the line low; any other leaves the line as it was. -/
theorem idleLine_configureTransport (i : Instr) (p c k : Byte) (s : State) :
    let t := configureTransport i p c k s
    (bothOk s = true → ∀ n, idleLine t n = .L) ∧
      (bothOk s = false → t.env.line = s.env.line ∧ ∀ n, idleLine t n = idleLine s n) := by
  intro t
  have hspec := configureTransport_spec i p c k s
  have hready : t.ready = bothOk s := hspec.ready_eq
  refine ⟨fun hok n => ?_, fun hno => ⟨?_, fun n => ?_⟩⟩
  · rw [idleLine, hspec.held_eq, hready, hok, Bool.or_true, if_pos rfl]
  · rw [hspec.line_eq, hready, hno, Bool.not_false, Bool.or_true, if_pos rfl, List.append_nil]
  · rw [idleLine, hspec.held_eq, hready, hno, Bool.or_false, idleLine]

/-- Settles O57: CFG's body holds the line exactly when both answers are ok, and every effect and turn appends. -/
theorem lineHeldAndHistoryGrows : Obligations.LineHeldAndHistoryGrows := by
  unfold Obligations.LineHeldAndHistoryGrows
  refine ⟨fun p c k s hacc => ?_, fun m s hacc hinit hm => ?_, fun s t hstep => ?_⟩
  · exact ⟨_, (exec_cfg s p c k).trans (accept_accepting hacc.1 hacc.2), idleLine_configureTransport _ p c k s⟩
  · refine ⟨_, (exec_begin s m).trans (accept_accepting hacc.1 hacc.2), ?_⟩
    rw [needFresh_of_fresh hinit hm]
    exact idleLine_configureTransport _ _ _ _ (createBuffer m s)
  · have h := extends_of_step hstep
    exact ⟨h.held, h.line, h.events⟩

/-! ## The LED count (R11) -/

/-- A block with its buffer keeps it: only INIT and BEGIN write `init` and `N`, on a block without one. -/
theorem init_and_N_of_effect {s t : State} (hinit : s.init = true) (heffect : Effect s t) :
    t.init = true ∧ t.N = s.N := by
  cases heffect with
  | held => exact ⟨hinit, rfl⟩
  | tookItem => exact ⟨hinit, rfl⟩
  | faulted => exact ⟨hinit, rfl⟩
  | created _ _ fresh => exact absurd (fresh.symm.trans hinit) (by decide)
  | wrote cmd i c => exact ⟨(storePixel_init s i c).trans hinit, storePixel_N s i c⟩
  | answered => exact ⟨hinit, rfl⟩
  | encoded => exact ⟨hinit, rfl⟩
  | configured cmd p c k =>
    have hspec := configureTransport_spec cmd p c k s
    exact ⟨hspec.init_eq.trans hinit, hspec.N_eq⟩
  | begun _ _ _ _ _ fresh => exact absurd (fresh.symm.trans hinit) (by decide)
  | sent c => rcases transmitFrame_cases c s with ⟨-, he⟩ | ⟨-, he⟩ <;> exact he ▸ ⟨hinit, rfl⟩
  | encodedSent c => rcases transmitFrame_cases c (loadFrame s) with ⟨-, he⟩ | ⟨-, he⟩ <;> exact he ▸ ⟨hinit, rfl⟩

theorem init_and_N_of_step {s t : State} (hinit : s.init = true) (hstep : step s = .next t) :
    t.init = true ∧ t.N = s.N := by
  obtain ⟨-, hturn⟩ := step_turn hstep
  cases hturn with
  | performed w rest _ _ _ run => exact init_and_N_of_effect (s := popWord s) hinit (exec_effect run).2
  | idle => exact ⟨hinit, rfl⟩
  | waited => exact ⟨hinit, rfl⟩
  | failed => exact ⟨hinit, rfl⟩
  | ended => exact ⟨hinit, rfl⟩
  | emitted => exact ⟨hinit, rfl⟩

/-- Settles O49: the sequence `PB` has `N` entries, and no step of a block with its buffer writes `N`. -/
theorem ledCountImmutable : Obligations.LedCountImmutable := by
  unfold Obligations.LedCountImmutable
  intro s t hstep hinit
  obtain ⟨hinit', hN⟩ := init_and_N_of_step hinit hstep
  exact ⟨hinit', hN, by rw [length_pixels, length_pixels, hN]⟩

/-! ## A frame in flight (R96, R97, R108) -/

/-- From `s` to `t` a transmission has gone on: the block is busy, and nothing but `pos`, the items emitted and the draws
has changed. -/
structure InFlight (s t : State) : Prop where
  busy : t.busy = true
  init_eq : t.init = s.init
  N_eq : t.N = s.N
  PB_eq : t.PB = s.PB
  CFGR_eq : t.CFGR = s.CFGR
  ready_eq : t.ready = s.ready
  IS_eq : t.IS = s.IS
  isValid_eq : t.isValid = s.isValid
  fault_eq : t.fault = s.fault
  caller_eq : t.env.caller = s.env.caller
  line_eq : t.env.line = s.env.line
  events_eq : t.env.events = s.env.events

theorem InFlight.refl {s : State} (hb : s.busy = true) : InFlight s s :=
  ⟨hb, rfl, rfl, rfl, rfl, rfl, rfl, rfl, rfl, rfl, rfl, rfl⟩

theorem InFlight.trans {s t u : State} (h : InFlight s t) (h' : InFlight t u) : InFlight s u where
  busy := h'.busy
  init_eq := h'.init_eq.trans h.init_eq
  N_eq := h'.N_eq.trans h.N_eq
  PB_eq := h'.PB_eq.trans h.PB_eq
  CFGR_eq := h'.CFGR_eq.trans h.CFGR_eq
  ready_eq := h'.ready_eq.trans h.ready_eq
  IS_eq := h'.IS_eq.trans h.IS_eq
  isValid_eq := h'.isValid_eq.trans h.isValid_eq
  fault_eq := h'.fault_eq.trans h.fault_eq
  caller_eq := h'.caller_eq.trans h.caller_eq
  line_eq := h'.line_eq.trans h.line_eq
  events_eq := h'.events_eq.trans h.events_eq

/-- What a step of a busy block can do: the transmission goes on, or it is completed with the answer of the peripheral's
move, ok only when no item is left. -/
inductive BusyStep (s : State) : State → Prop
  | flying (t : State) (flight : InFlight s t) : BusyStep s t
  | failed (move : s.env.next.move = .fail) : BusyStep s (completeTransmission .error s)
  | ended (move : s.env.next.move = .go) (all : s.IS[s.pos]? = none) : BusyStep s (completeTransmission .ok s)

theorem busyStep_of_step {s t : State} (hb : s.busy = true) (hstep : step s = .next t) : BusyStep s t := by
  obtain ⟨-, hturn⟩ := step_turn hstep
  cases hturn with
  | idle free => exact elim_busy free hb
  | performed _ _ _ free => exact elim_busy free hb
  | waited => exact .flying _ ⟨hb, rfl, rfl, rfl, rfl, rfl, rfl, rfl, rfl, rfl, rfl, rfl⟩
  | failed _ move => exact .failed move
  | ended _ move all => exact .ended move all
  | emitted => exact .flying _ ⟨hb, rfl, rfl, rfl, rfl, rfl, rfl, rfl, rfl, rfl, rfl, rfl⟩

/-- Settles O37: a step of a busy block goes on in the transmission or completes it. -/
theorem busyFreezesBuffer : Obligations.BusyFreezesBuffer := by
  unfold Obligations.BusyFreezesBuffer
  intro s t hb hstep
  cases busyStep_of_step hb hstep with
  | flying _ h =>
    exact ⟨h.init_eq, h.N_eq, h.PB_eq, h.CFGR_eq, h.ready_eq, h.IS_eq, h.fault_eq, fun _ => h.isValid_eq⟩
  | failed => exact ⟨rfl, rfl, rfl, rfl, rfl, rfl, rfl, elim_busy rfl⟩
  | ended => exact ⟨rfl, rfl, rfl, rfl, rfl, rfl, rfl, elim_busy rfl⟩

/-- Settles O56: a step that goes on delivers nothing, and a completion records its two entries in this order. -/
theorem onlyCompletionEndsTransmission : Obligations.OnlyCompletionEndsTransmission := by
  unfold Obligations.OnlyCompletionEndsTransmission
  intro s t hb hstep
  cases busyStep_of_step hb hstep with
  | flying _ h => exact ⟨fun _ => h.events_eq, fun free => elim_busy free h.busy⟩
  | failed move =>
    exact ⟨elim_busy rfl, fun _ => ⟨by simp [move], .error, by simp [move], by simp,
      (completeTransmission_effect .error s).2⟩⟩
  | ended move all =>
    exact ⟨elim_busy rfl, fun _ => ⟨by simp [move], .ok, by simp [move], fun _ => List.getElem?_eq_none_iff.1 all,
      (completeTransmission_effect .ok s).2⟩⟩

/-! ## The stepwise transmission (R97) -/

/-- What every step keeps, every run keeps. -/
theorem run_keeps {P : State → Prop} (hP : ∀ s t, P s → step s = .next t → P t) {k : Nat} {s t : State} (hs : P s)
    (hrun : Sys2Proof.core.run k s = .next t) : P t := by
  induction k generalizing s with
  | zero =>
    obtain rfl : s = t := Host.Outcome.next.inj hrun
    exact hs
  | succ k ih =>
    obtain ⟨u, hstep, hrest⟩ := run_succ hrun
    exact ih (hP s u hs hstep) hrest

theorem events_prefix_of_run {k : Nat} {s t : State} (hrun : Sys2Proof.core.run k s = .next t) :
    s.env.events <+: t.env.events :=
  run_keeps (P := fun u => s.env.events <+: u.env.events)
    (fun _ _ h hstep => h.trans (extends_of_step hstep).events) List.prefix_rfl hrun

/-- After a completion no run leads back to the event history before it. -/
theorem events_ne_of_run_complete {a : Config.Answer} {k : Nat} {s u : State}
    (hrun : Sys2Proof.core.run k (completeTransmission a s) = .next u) : u.env.events ≠ s.env.events := by
  intro hevents
  have hlen := (events_prefix_of_run hrun).length_le
  rw [(completeTransmission_effect a s).2, hevents, List.length_append] at hlen
  simp at hlen

/-- A run of a busy block that adds no event stays within the transmission. -/
theorem inFlight_of_run {k : Nat} {s u : State} (hb : s.busy = true) (hrun : Sys2Proof.core.run k s = .next u)
    (hevents : u.env.events = s.env.events) : InFlight s u := by
  induction k generalizing s with
  | zero =>
    obtain rfl : s = u := Host.Outcome.next.inj hrun
    exact .refl hb
  | succ k ih =>
    obtain ⟨v, hstep, hrest⟩ := run_succ hrun
    cases busyStep_of_step hb hstep with
    | flying _ h => exact h.trans (ih h.busy hrest (hevents.trans h.events_eq.symm))
    | failed => exact absurd hevents (events_ne_of_run_complete hrest)
    | ended => exact absurd hevents (events_ne_of_run_complete hrest)

/-- Settles O58, by induction on the steps within the transmission: they leave the frame and the line alone and keep the
invariant, by which the items emitted at an ok are the whole frame. -/
theorem stepwiseIsOneShot : Obligations.StepwiseIsOneShot := by
  unfold Obligations.StepwiseIsOneShot
  intro k s u t hinv hb hrun hub hevents hstep hend
  have hflight := inFlight_of_run hb hrun hevents
  have hinvu : Inv u := run_keeps (fun _ _ => inv_of_step) hinv hrun
  rw [← hevents] at hend
  cases busyStep_of_step hub hstep with
  | flying _ h =>
    rw [h.events_eq] at hend
    simp at hend
  | failed =>
    rw [(completeTransmission_effect .error u).2] at hend
    simp at hend
  | ended _ all =>
    refine ⟨?_, rfl, rfl, hflight.PB_eq, hflight.N_eq, hflight.CFGR_eq, hflight.ready_eq, hflight.IS_eq⟩
    rw [completeTransmission_env_line, carried, emitted_eq_IS hinvu hub all, hflight.line_eq, hflight.IS_eq]

end Sys2Proof.Proofs
end

section
/-! PROOFS. The frames of the families (20_memory.md section 5, 40_pixel_buffer.md to 43_facade.md): what each instruction
writes, said once for every row of the opcode table, and what follows for the fields it leaves alone. -/

namespace Sys2Proof.Proofs

open Sys2Proof Sys2Proof.Machine Sys2Proof.Claims

/-! ## What each instruction does (the effects, with the row that has them) -/

/-- What an instruction can do to a state when it answers a next state: `Effect`, with the instruction that has it. -/
inductive Performed (s : State) : Instr → State → Prop
  | held (i : Instr) (busy : s.busy = true) : Performed s i s
  | tookItem (i : Instr) (it : Item) (symbol : i = .t0 ∨ i = .t1 ∨ i = .trst) (busy : s.busy = true) :
      Performed s i (emitItem it s)
  | faulted (i : Instr) (r : FaultReason) (free : s.busy = false) : Performed s i (raiseFault r s)
  | created (n : Nat) (free : s.busy = false) (fresh : s.init = false) :
      Performed s (.init n) (respond (.init n) .ok 0 (createBuffer n s))
  | wrote (i cmd : Instr) (k : Int) (c : Color) (write : i.core = .setc k c ∨ i.core = .wrpx k c)
      (free : s.busy = false) (init : s.init = true) : Performed s i (respond cmd .ok 0 (storePixel k c s))
  | answered (i : Instr) (d : BitVec 32) (read : (∃ k, i = .rdpx k) ∨ i = .count) (free : s.busy = false)
      (init : s.init = true) : Performed s i (respond i .ok d s)
  | encoded (d : BitVec 32) (free : s.busy = false) (init : s.init = true) :
      Performed s .enc (respond .enc .ok d (loadFrame s))
  | configured (p c k : Byte) (free : s.busy = false) :
      Performed s (.cfg p c k) (configureTransport (.cfg p c k) p c k s)
  | begun (n : Nat) (p c k : Byte) (free : s.busy = false) (fresh : s.init = false) :
      Performed s (.begin n) (configureTransport (.begin n) p c k (createBuffer n s))
  | sent (free : s.busy = false) (init : s.init = true) : Performed s .tx (transmitFrame .tx s)
  | encodedSent (free : s.busy = false) (init : s.init = true) :
      Performed s .update (transmitFrame .update (loadFrame s))

section PerformedBy

variable {i : Instr} {s t : State}

theorem performed_of_accept {body : State → State} (hexec : accept body s = .next t)
    (hbody : s.busy = false → Performed s i (body s)) : Performed s i t := by
  obtain ⟨-, ⟨busy, rfl⟩ | ⟨free, rfl⟩⟩ := accept_next hexec
  · exact .held i busy
  · exact hbody free

theorem performed_needInit {body : State → State} (free : s.busy = false)
    (hbody : s.init = true → Performed s i (body s)) : Performed s i (needInit body s) := by
  rcases needInit_cases body s with ⟨init, he⟩ | ⟨-, he⟩ <;> rw [he]
  · exact hbody init
  · exact .faulted i _ free

theorem performed_needFresh {n : Nat} {body : State → State} (free : s.busy = false)
    (hbody : s.init = false → Performed s i (body s)) : Performed s i (needFresh n body s) := by
  rcases needFresh_cases n body s with ⟨fresh, -, he⟩ | ⟨r, he⟩ <;> rw [he]
  · exact hbody fresh
  · exact .faulted i r free

theorem performed_of_performWrite {cmd : Instr} {k : Int} {c : Color} (hexec : performWrite cmd k c s = .next t)
    (write : i.core = .setc k c ∨ i.core = .wrpx k c) : Performed s i t :=
  performed_of_accept hexec fun free => performed_needInit free fun init => .wrote i cmd k c write free init

theorem performed_of_illegalOpcode (hexec : illegalOpcode s = .next t) : Performed s i t :=
  performed_of_accept hexec fun free => .faulted i _ free

theorem performed_of_takeItem {it : Item} (hexec : takeItem it s = .next t) (symbol : i = .t0 ∨ i = .t1 ∨ i = .trst) :
    Performed s i t := by
  obtain ⟨-, busy, -, rfl⟩ := takeItem_next hexec
  exact .tookItem i it symbol busy

/-- Every next state of an instruction is one of the effects this instruction has. -/
theorem performed_of_exec (hexec : exec i s = .next t) : Performed s i t := by
  cases i with
  | init n => exact performed_of_accept hexec fun free => performed_needFresh free fun fresh => .created n free fresh
  | setc k c => exact performed_of_performWrite hexec (.inl rfl)
  | wrpx k c => exact performed_of_performWrite hexec (.inr rfl)
  | setcv k v => exact performed_of_performWrite hexec (.inl rfl)
  | setled k c => exact performed_of_performWrite hexec (.inl rfl)
  | rdpx k =>
    refine performed_of_accept hexec fun free => performed_needInit free fun init => ?_
    unfold needInRange
    split
    · exact .answered _ _ (.inl ⟨k, rfl⟩) free init
    · exact .faulted _ _ free
  | count =>
    exact performed_of_accept hexec fun free => performed_needInit free fun init =>
      .answered _ _ (.inr rfl) free init
  | enc => exact performed_of_accept hexec fun free => performed_needInit free fun init => .encoded _ free init
  | cfg p c k => exact performed_of_accept hexec fun free => .configured p c k free
  | tx =>
    refine performed_of_accept hexec fun free => performed_needInit free fun init => ?_
    unfold needFrame
    split
    · exact .sent free init
    · exact .faulted _ _ free
  | begin n =>
    exact performed_of_accept hexec fun free => performed_needFresh free fun fresh => .begun n _ _ _ free fresh
  | update => exact performed_of_accept hexec fun free => performed_needInit free fun init => .encodedSent free init
  | reserved0 a d => exact performed_of_illegalOpcode hexec
  | reservedB a d => exact performed_of_illegalOpcode hexec
  | reservedC a d => exact performed_of_illegalOpcode hexec
  | reservedD a d => exact performed_of_illegalOpcode hexec
  | reservedE a d => exact performed_of_illegalOpcode hexec
  | reservedF a d => exact performed_of_illegalOpcode hexec
  | t0 => exact performed_of_takeItem hexec (.inl rfl)
  | t1 => exact performed_of_takeItem hexec (.inr (.inl rfl))
  | trst => exact performed_of_takeItem hexec (.inr (.inr rfl))

end PerformedBy

/-! ## The entries an instruction adds to the event history (R27, R126, R127) -/

/-- The entries an instruction adds: none, an ok, those of CFG's body, a hand-over, or a refused transmission. -/
inductive Added (s : State) (i : Instr) (t : State) : List Event → Prop
  | nothing : Added s i t []
  | answered (cmd : Instr) (d : BitVec 32) : Added s i t [.response cmd ⟨.ok, d⟩]
  | configured (p c k : Byte) (cmd : (∃ p c k, i = .cfg p c k) ∨ ∃ n, i = .begin n) (ready : t.ready = bothOk s) :
      Added s i t (configureEvents s i p c k)
  | handedOver (ch : Byte) (items : List Item) (cmd : i = .tx ∨ i = .update) :
      Added s i t [.transmit ch items true]
  | refused (cmd : i = .tx ∨ i = .update) (discarded : t.isValid = false) (free : t.busy = false) :
      Added s i t [.response i ⟨.errTransmit, 0⟩]

section Events

variable {s t u : State} {i : Instr}

theorem added_nothing (hevents : t.env.events = s.env.events) : Added s i t (newEvents s t) := by
  rw [newEvents, hevents, List.drop_length]
  exact .nothing

theorem added_respond (cmd : Instr) (d : BitVec 32) (hevents : u.env.events = s.env.events) :
    Added s i (respond cmd .ok d u) (newEvents s (respond cmd .ok d u)) := by
  rw [newEvents_of_append (added := [.response cmd ⟨.ok, d⟩]) (by rw [respond_env_events, hevents])]
  exact .answered cmd d

theorem added_configureTransport (p c k : Byte) (hi : (∃ p c k, i = .cfg p c k) ∨ ∃ n, i = .begin n)
    (henv : u.env = s.env) :
    Added s i (configureTransport i p c k u) (newEvents s (configureTransport i p c k u)) := by
  have hboth : bothOk u = bothOk s := by rw [bothOk, henv, bothOk]
  have hevents : configureEvents u i p c k = configureEvents s i p c k := by
    rw [configureEvents, hboth, henv, configureEvents]
  rw [newEvents_of_append (added := configureEvents s i p c k)
    (by rw [configureTransport_env_events, henv, hevents])]
  exact .configured p c k hi ((configureTransport_spec i p c k u).ready_eq.trans hboth)

theorem added_transmitFrame (caller : Caller) (hi : i = caller.instr) (hcmd : i = .tx ∨ i = .update)
    (hfree : u.busy = false) (hevents : u.env.events = s.env.events) :
    Added s i (transmitFrame caller u) (newEvents s (transmitFrame caller u)) := by
  rcases transmitFrame_cases caller u with ⟨-, he⟩ | ⟨-, he⟩ <;> rw [he]
  · rw [newEvents_of_append (added := [.transmit u.CFGR.channel u.IS true])
      (by rw [startTransmission_env_events, hevents])]
    exact .handedOver _ _ hcmd
  · rw [newEvents_of_append (added := [.response i ⟨.errTransmit, 0⟩]) (by rw [respond_env_events, hevents, hi])]
    exact .refused hcmd rfl hfree

theorem Performed.added (h : Performed s i t) : Added s i t (newEvents s t) := by
  cases h with
  | held => exact added_nothing rfl
  | tookItem => exact added_nothing rfl
  | faulted => exact added_nothing rfl
  | created n => exact added_respond _ _ rfl
  | wrote _ cmd k c => exact added_respond _ _ (by rw [storePixel_env])
  | answered _ d => exact added_respond _ _ rfl
  | encoded d => exact added_respond _ _ rfl
  | configured p c k => exact added_configureTransport p c k (.inl ⟨p, c, k, rfl⟩) rfl
  | begun n p c k => exact added_configureTransport p c k (.inr ⟨n, rfl⟩) rfl
  | sent free => exact added_transmitFrame .tx rfl (.inl rfl) free rfl
  | encodedSent free => exact added_transmitFrame .update rfl (.inr rfl) free rfl

/-- CFG's body answers once, for the command it is performed for, and with data 0. -/
theorem response_mem_configureEvents {p c k : Byte} {j : Instr} {r : Response} :
    .response j r ∈ configureEvents s i p c k ↔ j = i ∧ r = ⟨if bothOk s then .ok else .errConfig, 0⟩ := by
  unfold configureEvents
  split <;> simp

theorem transmit_not_mem_configureEvents {p c k ch : Byte} {items : List Item} {b : Bool} :
    .transmit ch items b ∉ configureEvents s i p c k := by
  unfold configureEvents
  split <;> simp

/-- Only CFG and BEGIN deliver ERR_CONFIG, and both answers were then not ok (R126). -/
theorem Added.errConfig {added : List Event} (h : Added s i t added) {j : Instr} {d : BitVec 32}
    (hmem : .response j ⟨.errConfig, d⟩ ∈ added) :
    ((∃ p c k, i = .cfg p c k) ∨ ∃ n, i = .begin n) ∧ j = i ∧ d = 0 ∧ t.ready = false := by
  cases h with
  | nothing => simp at hmem
  | answered => simp at hmem
  | configured p c k cmd ready =>
    obtain ⟨hj, hr⟩ := response_mem_configureEvents.1 hmem
    cases hboth : bothOk s with
    | true => simp [hboth] at hr
    | false => exact ⟨cmd, hj, by simpa [hboth] using hr, ready.trans hboth⟩
  | handedOver => simp at hmem
  | refused => simp at hmem

/-- Only TX and UPDATE deliver ERR_TRANSMIT when performed, and nothing was sent (R127). -/
theorem Added.errTransmit {added : List Event} (h : Added s i t added) {j : Instr} {d : BitVec 32}
    (hmem : .response j ⟨.errTransmit, d⟩ ∈ added) :
    (i = .tx ∨ i = .update) ∧ j = i ∧ d = 0 ∧ t.isValid = false ∧ t.busy = false ∧ ∀ e ∈ added, isCall e = false := by
  cases h with
  | nothing => simp at hmem
  | answered => simp at hmem
  | configured p c k =>
    obtain ⟨-, hr⟩ := response_mem_configureEvents.1 hmem
    cases hboth : bothOk s <;> simp [hboth] at hr
  | handedOver => simp at hmem
  | refused cmd discarded free =>
    obtain ⟨rfl, rfl⟩ : j = i ∧ d = 0 := by simpa using hmem
    exact ⟨cmd, rfl, rfl, discarded, free, by simp [isCall]⟩

/-- The calls come from the transport's commands: transmit from TX and UPDATE, the others from CFG and BEGIN (R111). -/
theorem Added.call {added : List Event} (h : Added s i t added) {e : Event} (hmem : e ∈ added)
    (hcall : isCall e = true) :
    (∃ ch items b, e = .transmit ch items b ∧ (i = .tx ∨ i = .update)) ∨
      ((∀ ch items b, e ≠ .transmit ch items b) ∧ ((∃ p c k, i = .cfg p c k) ∨ ∃ n, i = .begin n)) := by
  cases h with
  | nothing => simp at hmem
  | answered => rw [List.mem_singleton.1 hmem] at hcall; cases hcall
  | configured p c k cmd =>
    refine .inr ⟨fun ch items b he => ?_, cmd⟩
    subst he
    exact transmit_not_mem_configureEvents hmem
  | handedOver ch items cmd => exact .inl ⟨ch, items, true, List.mem_singleton.1 hmem, cmd⟩
  | refused => rw [List.mem_singleton.1 hmem] at hcall; cases hcall

end Events

/-- Settles O38: the error responses among the entries each instruction adds. -/
theorem errorClasses : Obligations.ErrorClasses := by
  unfold Obligations.ErrorClasses
  intro i j s t d hexec
  have hadded := (performed_of_exec hexec).added
  exact ⟨hadded.errConfig, hadded.errTransmit⟩

/-! ## The fields an instruction leaves alone -/

section Frames

variable {s t : State} {i : Instr}

/-- Only ENC and UPDATE write the item store (R20). -/
theorem Performed.IS_eq (h : Performed s i t) (henc : i ≠ .enc) (hupdate : i ≠ .update) : t.IS = s.IS := by
  cases h with
  | held => rfl
  | tookItem => rfl
  | faulted => rfl
  | created => rfl
  | wrote => simp
  | answered => rfl
  | encoded => exact absurd rfl henc
  | configured p c k => exact (configureTransport_spec _ p c k s).IS_eq
  | begun n p c k => exact (configureTransport_spec _ p c k (createBuffer n s)).IS_eq
  | sent => rcases transmitFrame_cases .tx s with ⟨-, he⟩ | ⟨-, he⟩ <;> rw [he] <;> rfl
  | encodedSent => exact absurd rfl hupdate

/-- Only CFG and BEGIN write `ready` (R15). -/
theorem Performed.ready_eq (h : Performed s i t) (hcfg : ∀ p c k, i ≠ .cfg p c k) (hbegin : ∀ n, i ≠ .begin n) :
    t.ready = s.ready := by
  cases h with
  | held => rfl
  | tookItem => rfl
  | faulted => rfl
  | created => rfl
  | wrote => simp
  | answered => rfl
  | encoded => rfl
  | configured p c k => exact absurd rfl (hcfg p c k)
  | begun n => exact absurd rfl (hbegin n)
  | sent => rcases transmitFrame_cases .tx s with ⟨-, he⟩ | ⟨-, he⟩ <;> rw [he] <;> rfl
  | encodedSent => rcases transmitFrame_cases .update (loadFrame s) with ⟨-, he⟩ | ⟨-, he⟩ <;> rw [he] <;> rfl

/-- On a held line CFG's body drives no tick (R111). -/
theorem configureTransport_env_line_of_held {s : State} (hheld : s.env.lineHeld = true) (i : Instr) (p c k : Byte) :
    (configureTransport i p c k s).env.line = s.env.line := by
  rw [(configureTransport_spec i p c k s).line_eq, hheld, Bool.true_or, if_pos rfl, List.append_nil]

/-- Once the line is held only TX and UPDATE drive it. -/
theorem Performed.line_eq (h : Performed s i t) (hheld : s.env.lineHeld = true) (htx : i ≠ .tx)
    (hupdate : i ≠ .update) : t.env.line = s.env.line := by
  cases h with
  | held => rfl
  | tookItem => rfl
  | faulted => rfl
  | created => rfl
  | wrote => simp
  | answered => rfl
  | encoded => rfl
  | configured p c k => exact configureTransport_env_line_of_held hheld _ p c k
  | begun n p c k => exact configureTransport_env_line_of_held (s := createBuffer n s) hheld _ p c k
  | sent => exact absurd rfl htx
  | encodedSent => exact absurd rfl hupdate

/-- The pixel-buffer commands with the aliases of SETC. -/
def PixelCommand (i : Instr) : Prop :=
  (∃ n, i = .init n) ∨ (∃ k c, i = .setc k c ∨ i = .wrpx k c ∨ i = .setled k c) ∨ (∃ k v, i = .setcv k v) ∨
    (∃ k, i = .rdpx k) ∨ i = .count

/-- The transport, the frame and the line are as before. -/
def TransportKept (s t : State) : Prop :=
  t.CFGR = s.CFGR ∧ t.ready = s.ready ∧ t.IS = s.IS ∧ t.isValid = s.isValid ∧ t.busy = s.busy ∧ t.pos = s.pos ∧
    t.env.line = s.env.line ∧ t.env.lineHeld = s.env.lineHeld

theorem Performed.transportKept (h : Performed s i t) (hpixel : PixelCommand i) : TransportKept s t := by
  cases h with
  | held => exact ⟨rfl, rfl, rfl, rfl, rfl, rfl, rfl, rfl⟩
  | tookItem _ _ symbol => rcases symbol with rfl | rfl | rfl <;> simp [PixelCommand] at hpixel
  | faulted => exact ⟨rfl, rfl, rfl, rfl, rfl, rfl, rfl, rfl⟩
  | created => exact ⟨rfl, rfl, rfl, rfl, rfl, rfl, rfl, rfl⟩
  | wrote => simp [TransportKept]
  | answered => exact ⟨rfl, rfl, rfl, rfl, rfl, rfl, rfl, rfl⟩
  | encoded => simp [PixelCommand] at hpixel
  | configured => simp [PixelCommand] at hpixel
  | begun => simp [PixelCommand] at hpixel
  | sent => simp [PixelCommand] at hpixel
  | encodedSent => simp [PixelCommand] at hpixel

/-- A pixel-buffer command makes no call. -/
theorem Performed.isCall_eq_false (h : Performed s i t) (hpixel : PixelCommand i) :
    ∀ e ∈ newEvents s t, isCall e = false := by
  intro e hmem
  by_contra hcall
  rcases h.added.call hmem (by simpa using hcall) with ⟨-, -, -, -, rfl | rfl⟩ | ⟨-, ⟨p, c, k, rfl⟩ | ⟨n, rfl⟩⟩ <;>
    simp [PixelCommand] at hpixel

/-- Only INIT among the pixel-buffer commands writes `N` and `init`. -/
theorem Performed.N_and_init_eq (h : Performed s i t) (hpixel : PixelCommand i) (hinit : ¬ ∃ n, i = .init n) :
    t.N = s.N ∧ t.init = s.init := by
  cases h with
  | held => exact ⟨rfl, rfl⟩
  | tookItem => exact ⟨rfl, rfl⟩
  | faulted => exact ⟨rfl, rfl⟩
  | created n => exact absurd ⟨n, rfl⟩ hinit
  | wrote => simp
  | answered => exact ⟨rfl, rfl⟩
  | encoded => exact ⟨rfl, rfl⟩
  | configured => simp [PixelCommand] at hpixel
  | begun => simp [PixelCommand] at hpixel
  | sent => simp [PixelCommand] at hpixel
  | encodedSent => simp [PixelCommand] at hpixel

/-- RDPX and COUNT leave the buffer alone. -/
theorem Performed.PB_eq_of_read (h : Performed s i t) (hread : (∃ k, i = .rdpx k) ∨ i = .count) : t.PB = s.PB := by
  cases h with
  | held => rfl
  | tookItem => rfl
  | faulted => rfl
  | created => simp at hread
  | wrote _ _ _ _ write => rcases hread with ⟨k, rfl⟩ | rfl <;> simp [Instr.core] at write
  | answered => rfl
  | encoded => rfl
  | configured => simp at hread
  | begun => simp at hread
  | sent => simp at hread
  | encodedSent => simp at hread

end Frames

/-- Settles O39: of the effects only those that write the buffer, answer a read or fault are a pixel-buffer command's. -/
theorem pixelCommandsFrame : Obligations.PixelCommandsFrame := by
  unfold Obligations.PixelCommandsFrame
  intro i s t hexec hpixel
  have h := performed_of_exec hexec
  obtain ⟨hCFGR, hready, hIS, hvalid, hbusy, hpos, hline, hheld⟩ := h.transportKept hpixel
  exact ⟨hCFGR, hready, hIS, hvalid, hbusy, hpos, hline, hheld, h.isCall_eq_false hpixel, h.N_and_init_eq hpixel,
    h.PB_eq_of_read⟩

/-- An accepted CFG performs its body. -/
theorem eq_configureTransport_of_exec {p c k : Byte} {s t : State} (free : s.busy = false)
    (hexec : exec (.cfg p c k) s = .next t) : t = configureTransport (.cfg p c k) p c k s := by
  obtain ⟨-, ⟨busy, -⟩ | ⟨-, ht⟩⟩ := accept_next hexec
  · exact elim_busy free busy
  · exact ht

/-- CFG writes `CFGR` and `ready` alone; on a busy block it is held. -/
theorem cfg_frame {p c k : Byte} {s t : State} (hexec : exec (.cfg p c k) s = .next t) :
    t = { s with CFGR := t.CFGR, ready := t.ready, env := t.env } := by
  obtain ⟨-, ⟨-, rfl⟩ | ⟨-, rfl⟩⟩ := accept_next hexec
  · rfl
  · rw [configureTransport_eq]

/-- TX writes `busy`, `pos`, `is_valid` or its fault. -/
theorem tx_frame {s t : State} (hexec : exec .tx s = .next t) :
    t = { s with busy := t.busy, pos := t.pos, isValid := t.isValid, fault := t.fault, env := t.env } := by
  cases performed_of_exec hexec with
  | held => rfl
  | tookItem _ _ symbol => simp at symbol
  | faulted => rfl
  | wrote _ _ _ _ write => simp [Instr.core] at write
  | answered _ _ read => simp at read
  | sent => rcases transmitFrame_cases .tx s with ⟨-, he⟩ | ⟨-, he⟩ <;> rw [he] <;> rfl

/-- Settles O40: CFG's and TX's effects by name, and the line and the calls over every instruction. -/
theorem transportCommandsFrame : Obligations.TransportCommandsFrame := by
  unfold Obligations.TransportCommandsFrame
  exact ⟨fun p c k s t hexec => cfg_frame hexec, fun s t hexec => tx_frame hexec,
    fun i s t hexec => (performed_of_exec hexec).line_eq,
    fun i s t e hexec => (performed_of_exec hexec).added.call⟩

/-! ## The flags `init` and `ready` (R13, R15, R17) -/

/-- Where `init` was false, exactly a creation sets it, and every other effect of INIT and BEGIN is a fault. -/
theorem Performed.init_iff {s t : State} {i : Instr} (h : Performed s i t) (sound : s.fault = none)
    (hinit : s.init = false) (free : s.busy = false) :
    t.init = true ↔ t.fault = none ∧ ∃ n, i = .init n ∨ i = .begin n := by
  cases h with
  | held _ busy => exact elim_busy free busy
  | tookItem _ _ _ busy => exact elim_busy free busy
  | faulted => simp [hinit]
  | created n => simp [sound]
  | wrote _ _ _ _ _ _ init => exact absurd (hinit.symm.trans init) (by decide)
  | answered _ _ _ _ init => exact absurd (hinit.symm.trans init) (by decide)
  | encoded _ _ init => exact absurd (hinit.symm.trans init) (by decide)
  | configured p c k => simp [(configureTransport_spec (.cfg p c k) p c k s).init_eq, hinit]
  | begun n p c k =>
    have hspec := configureTransport_spec (.begin n) p c k (createBuffer n s)
    simp [hspec.init_eq, hspec.fault_eq, sound]
  | sent _ init => exact absurd (hinit.symm.trans init) (by decide)
  | encodedSent _ init => exact absurd (hinit.symm.trans init) (by decide)

/-- Settles O47: no effect clears `init`, and only the creation of a buffer sets it. -/
theorem initFlagRule : Obligations.InitFlagRule := by
  unfold Obligations.InitFlagRule
  refine ⟨rfl, fun i s t hexec hinit => ?_, fun i s t hexec hinit free => ?_, fun s t hstep hinit => ?_⟩
  · exact (init_and_N_of_effect hinit (exec_effect hexec).2).1
  · exact (performed_of_exec hexec).init_iff (exec_effect hexec).1 hinit free
  · exact (init_and_N_of_step hinit hstep).1

/-- Settles O48: CFG's body writes `ready` by both answers, and no other effect writes it. -/
theorem readyFlagRule : Obligations.ReadyFlagRule := by
  unfold Obligations.ReadyFlagRule
  refine ⟨rfl, fun p c k s t free hexec => ?_, fun n s t free hexec sound => ?_,
    fun i s t hexec => (performed_of_exec hexec).ready_eq⟩
  · rw [eq_configureTransport_of_exec free hexec]
    exact (configureTransport_spec _ p c k s).ready_eq
  · obtain ⟨-, ⟨busy, -⟩ | ⟨-, rfl⟩⟩ := accept_next hexec
    · exact elim_busy free busy
    · rcases needFresh_cases n (fun t => configureTransport (.begin n) Config.pin Config.channel beginDivisor
        (createBuffer n t)) s with ⟨-, -, he⟩ | ⟨r, he⟩ <;> rw [he] at sound ⊢
      · exact (configureTransport_spec _ _ _ _ (createBuffer n s)).ready_eq
      · simp at sound

end Sys2Proof.Proofs
end

section
/-! PROOFS. Commands one after another (20_memory.md section 5, 42_transport.md section 2, 43_facade.md): a frame is a
snapshot, a read gives the latest write, UPDATE is ENC then TX, BEGIN is INIT then CFG, and CFG is idempotent. -/

namespace Sys2Proof.Proofs

open Sys2Proof Sys2Proof.Machine Sys2Proof.Claims

/-! ## The symbols as instructions (R52, R96) -/

theorem takeItem_refused {s : State} (it : Item) (hf : s.fault = none) (h : s.busy = false ∨ s.IS.length ≤ s.pos) :
    takeItem it s = .refused .noItemStep := by
  rcases h with hb | hpos
  · simp [takeItem, hf, hb]
  · simp [takeItem, hf, Nat.not_lt.2 hpos]

/-- An enabled generator step emits its item and leaves the line history alone. -/
theorem takeItem_emits {s : State} (it : Item) (hf : s.fault = none) (hb : s.busy = true) (hpos : s.pos < s.IS.length) :
    ∃ t, takeItem it s = .next t ∧ EmitsItem it s t ∧ t.env.line = s.env.line :=
  ⟨_, takeItem_enabled it hf hb hpos, emitsItem_emitItem it s, rfl⟩

/-- Settles O32: the three symbols are one generator step, each with its own item. -/
theorem symbolsAreGeneratorSteps : Obligations.SymbolsAreGeneratorSteps := by
  unfold Obligations.SymbolsAreGeneratorSteps
  exact ⟨fun s hf hb hpos => ⟨takeItem_emits symT0 hf hb hpos, takeItem_emits symT1 hf hb hpos,
      takeItem_emits symTRST hf hb hpos⟩,
    fun s hf h => ⟨takeItem_refused symT0 hf h, takeItem_refused symT1 hf h, takeItem_refused symTRST hf h⟩⟩

/-! ## The commands on an accepting block that has its buffer -/

@[simp] theorem accepting_respond (s : State) (i : Instr) (st : Status) (d : BitVec 32) :
    (respond i st d s).accepting ↔ s.accepting := Iff.rfl

@[simp] theorem accepting_loadFrame (s : State) : (loadFrame s).accepting ↔ s.accepting := Iff.rfl

@[simp] theorem accepting_storePixel (s : State) (i : Int) (c : Color) : (storePixel i c s).accepting ↔ s.accepting := by
  simp [State.accepting]

section Live

variable {s : State} (hacc : s.accepting) (hinit : s.init = true)

include hacc hinit

theorem exec_setc_of_init (i : Int) (c : Color) :
    exec (.setc i c) s = .next (respond (.setc i c) .ok 0 (storePixel i c s)) := by
  rw [exec_setc, accept_accepting hacc.1 hacc.2, needInit_of_init hinit]

theorem exec_wrpx_of_init (i : Int) (c : Color) :
    exec (.wrpx i c) s = .next (respond (.wrpx i c) .ok 0 (storePixel i c s)) := by
  rw [exec_wrpx, accept_accepting hacc.1 hacc.2, needInit_of_init hinit]

theorem exec_rdpx_of_inRange {i : Int} (hin : inRange s.N i = true) :
    exec (.rdpx i) s = .next (respond (.rdpx i) .ok (readPixel s.PB (pixelIndex i)).pack s) := by
  rw [exec_rdpx, accept_accepting hacc.1 hacc.2, needInit_of_init hinit, needInRange_of_inRange hin]

theorem exec_enc_of_init :
    exec .enc s = .next (respond .enc .ok (BitVec.ofNat 32 (32 * s.N + 1)) (loadFrame s)) := by
  rw [exec_enc, accept_accepting hacc.1 hacc.2, needInit_of_init hinit]

theorem exec_tx_of_valid (hvalid : s.isValid = true) : exec .tx s = .next (transmitFrame .tx s) := by
  rw [exec_tx, accept_accepting hacc.1 hacc.2, needInit_of_init hinit, needFrame_of_valid hvalid]

theorem exec_update_of_init : exec .update s = .next (transmitFrame .update (loadFrame s)) := by
  rw [exec_update, accept_accepting hacc.1 hacc.2, needInit_of_init hinit]

end Live

/-! ## A frame is a value, a read gives the latest write (20_memory.md section 5) -/

/-- ENC, a write, TX: the frame handed over is that of the buffer before the write. -/
theorem enc_setc_tx {s : State} (hacc : s.accepting) (hinit : s.init = true) (hready : s.ready = true) (i : Int)
    (c : Color) :
    ∃ u v t, exec .enc s = .next u ∧ exec (.setc i c) u = .next v ∧ exec .tx v = .next t ∧
      t.env.events.getLast? = some (.transmit s.CFGR.channel (encodeFrame (pixels s)) true) := by
  refine ⟨_, _, _, exec_enc_of_init hacc hinit, exec_setc_of_init (by simpa using hacc) (by simpa using hinit) i c,
    exec_tx_of_valid (by simpa using hacc) (by simpa using hinit) (by simp), ?_⟩
  rw [transmitFrame_ready (by simpa using hready), startTransmission_env_events, List.getLast?_concat]
  simp

/-- Settles O41: the item store is ENC's and UPDATE's alone, so the write between ENC and TX does not reach the frame. -/
theorem frameIsSnapshot : Obligations.FrameIsSnapshot := by
  unfold Obligations.FrameIsSnapshot
  exact ⟨fun i s t hexec => (performed_of_exec hexec).IS_eq,
    fun s i c hacc hinit hready => enc_setc_tx hacc hinit hready i c⟩

/-- A read of the buffer after an in-range write. -/
theorem readPixel_storePixel {s : State} (hwf : Memory.wf s.PB) {i j : Int} (hi : inRange s.N i = true) (hj : 0 ≤ j)
    (c : Color) :
    readPixel (storePixel i c s).PB (pixelIndex j) = if j = i then c else readPixel s.PB (pixelIndex j) := by
  rw [storePixel_of_inRange hi]
  split
  · next h => rw [h]; exact readPixel_writePixel_same hwf _ c
  · next h =>
    have h0 := (inRange_iff.1 hi).1
    exact readPixel_writePixel_other _ c (by simp only [pixelIndex]; omega)

/-- Settles O42: the memory laws of one entry, the same and another, between SETC and RDPX. -/
theorem readAfterWrite : Obligations.ReadAfterWrite := by
  unfold Obligations.ReadAfterWrite
  intro s i j c hacc hinit hwf hi hiN hj hjN
  have hini : inRange s.N i = true := inRange_iff.2 ⟨hi, hiN⟩
  have hinj : inRange s.N j = true := inRange_iff.2 ⟨hj, hjN⟩
  refine ⟨_, _, exec_setc_of_init hacc hinit i c, ?_,
    exec_rdpx_of_inRange (by simpa using hacc) (by simpa using hinit) (by simpa using hinj), ?_⟩
  · rw [exec_wrpx_of_init hacc hinit, storePixel_of_inRange hini]
    rfl
  · rw [respond_env_events, respond_PB, readPixel_storePixel hwf hini hj]

/-! ## UPDATE is ENC then TX (R117) -/

/-- What `v` of UPDATE shares with `t` of TX after the ENC that left `u`. -/
def SameTransmission (s u t v : State) : Prop :=
  v = { t with env := v.env } ∧ v.env.events.filter isCall = t.env.events.filter isCall ∧
    (∀ st d, .response .tx ⟨st, d⟩ ∈ newEvents u t ↔ .response .update ⟨st, d⟩ ∈ newEvents s v) ∧
    v.env.line = t.env.line ∧ v.env.lineHeld = t.env.lineHeld ∧ v.env.emitted = t.env.emitted ∧
    v.env.next = t.env.next ∧ v.env.program = t.env.program

/-- ENC's response changes nothing TX's body reads, so the frame is handed over by both, or discarded by both. -/
theorem sameTransmission_loadFrame (s : State) (d : BitVec 32) :
    SameTransmission s (respond .enc .ok d (loadFrame s)) (transmitFrame .tx (respond .enc .ok d (loadFrame s)))
      (transmitFrame .update (loadFrame s)) := by
  cases hready : s.ready with
  | true =>
    rw [transmitFrame_ready (s := respond .enc .ok d (loadFrame s)) hready,
      transmitFrame_ready (s := loadFrame s) hready]
    exact ⟨rfl, by simp [isCall], by simp [newEvents], rfl, rfl, rfl, rfl, rfl⟩
  | false =>
    rw [transmitFrame_unready (s := respond .enc .ok d (loadFrame s)) hready,
      transmitFrame_unready (s := loadFrame s) hready]
    exact ⟨rfl, by simp [isCall], by simp [newEvents, Caller.instr], rfl, rfl, rfl, rfl, rfl⟩

/-- Settles O44: behind check 5, which both pass or fail, UPDATE runs TX's body on the frame ENC loads. -/
theorem updateIsEncThenTx : Obligations.UpdateIsEncThenTx := by
  unfold Obligations.UpdateIsEncThenTx
  refine fun s hacc => ⟨fun hinit => ?_, fun hinit => ?_⟩
  · rw [exec_update, exec_enc, accept_accepting hacc.1 hacc.2, accept_accepting hacc.1 hacc.2,
      needInit_of_not_init hinit, needInit_of_not_init hinit]
  · exact ⟨_, _, _, exec_enc_of_init hacc hinit, exec_tx_of_valid (by simpa using hacc) (by simpa using hinit) rfl,
      exec_update_of_init hacc hinit, sameTransmission_loadFrame s _⟩

/-! ## BEGIN is INIT then CFG (R118), CFG is idempotent (R106) -/

theorem configureTransport_env_next (i : Instr) (p c k : Byte) (s : State) :
    (configureTransport i p c k s).env.next = Config.draw s.env.drawn := by
  unfold configureTransport
  cases s.env.next.configure <;> cases s.env.next.install <;> simp

/-- The calls of CFG's body, whichever command performs it. -/
theorem filter_isCall_configureEvents (s : State) (i j : Instr) (p c k : Byte) :
    (configureEvents s i p c k).filter isCall = (configureEvents s j p c k).filter isCall := by
  simp only [configureEvents, List.filter_append]
  rfl

/-- Checks 4 and 6 of R134 fail alike, whatever stands behind them. -/
theorem needFresh_congr_of_fault {n : Nat} {s : State} (h : s.init = true ∨ Config.nmax < n)
    (body body' : State → State) : needFresh n body s = needFresh n body' s := by
  cases hinit : s.init with
  | true => rw [needFresh_of_init hinit, needFresh_of_init hinit]
  | false =>
    have hn : Config.nmax < n := h.resolve_left (by simp [hinit])
    rw [needFresh_of_countRange hinit hn, needFresh_of_countRange hinit hn]

/-- What `v` of BEGIN shares with `t` of INIT and CFG. -/
def SameConfiguration (t v : State) : Prop :=
  v = { t with env := v.env } ∧ v.env.events.filter isCall = t.env.events.filter isCall ∧
    v.env.line = t.env.line ∧ v.env.lineHeld = t.env.lineHeld ∧ v.env.next = t.env.next ∧
    v.env.program = t.env.program

/-- A response before CFG's body changes nothing the body reads, and it is no call. -/
theorem sameConfiguration_respond (i j cmd : Instr) (st : Status) (d : BitVec 32) (p c k : Byte) (s : State) :
    SameConfiguration (configureTransport j p c k (respond cmd st d s)) (configureTransport i p c k s) := by
  have ht := configureTransport_spec j p c k (respond cmd st d s)
  have hv := configureTransport_spec i p c k s
  refine ⟨?_, ?_, ?_, ?_, ?_, ?_⟩
  · rw [configureTransport_eq i, configureTransport_eq j]
    rfl
  · have hno : [Event.response cmd ⟨st, d⟩].filter isCall = [] := rfl
    rw [configureTransport_env_events, configureTransport_env_events, respond_env_events, List.filter_append,
      List.filter_append, List.filter_append, hno, List.append_nil, filter_isCall_configureEvents s i j]
    rfl
  · rw [hv.line_eq, ht.line_eq, hv.ready_eq, ht.ready_eq]
    rfl
  · rw [hv.held_eq, ht.held_eq, hv.ready_eq, ht.ready_eq]
    rfl
  · rw [configureTransport_env_next, configureTransport_env_next]
    rfl
  · rw [hv.program_eq, ht.program_eq]
    rfl

/-- Settles O45: the checks of both are INIT's, and behind them CFG's body runs on the same fresh buffer. -/
theorem beginIsInitThenCfg : Obligations.BeginIsInitThenCfg := by
  unfold Obligations.BeginIsInitThenCfg
  intro s n hacc
  rw [exec_begin, exec_init, accept_accepting hacc.1 hacc.2, accept_accepting hacc.1 hacc.2]
  refine ⟨fun h => by rw [needFresh_congr_of_fault h], fun hinit hn => ?_⟩
  rw [needFresh_of_fresh hinit hn, needFresh_of_fresh hinit hn]
  exact ⟨_, _, _, rfl, (exec_cfg ..).trans (accept_accepting hacc.1 hacc.2), rfl, sameConfiguration_respond ..⟩

/-- Settles O46: CFG's body writes its operands and both answers, which are what the block holds already. -/
theorem cfgIsIdempotent : Obligations.CfgIsIdempotent := by
  unfold Obligations.CfgIsIdempotent
  intro s u p c k d hacc hexec hconfigure hinstall
  have hspec := configureTransport_spec (.cfg p c k) p c k s
  rw [← eq_configureTransport_of_exec hacc.2 hexec] at hspec
  refine ⟨_, (exec_cfg ..).trans (accept_accepting (hspec.fault_eq.trans hacc.1) (hspec.busy_eq.trans hacc.2)), ?_⟩
  have hready : bothOk { u with env := { u.env with next := d } } = u.ready := by
    rw [hspec.ready_eq, ← hconfigure, ← hinstall]
    rfl
  rw [configureTransport_eq, hready, ← hspec.CFGR_eq]

end Sys2Proof.Proofs
end

section
/-! PROOFS. The first command (70_reset_and_hazards.md section 1): the fault an accepted word takes is that of the first
check that applies, read from the word's opcode. -/

namespace Sys2Proof.Proofs

open Sys2Proof Sys2Proof.Machine Sys2Proof.Claims

/-! ## The first word by its opcode (R134, R151) -/

/-- A command leaves the fault of the first check that applies, and none where none does. -/
theorem Ending.fault_eq {i : Instr} {s t : State} (h : Ending i s t) : t.fault = firstFault i s := by
  cases hcheck : firstFault i s with
  | none => exact h.fault_eq_none hcheck
  | some r => rw [h.eq_faulted hcheck]; rfl

/-- The command of a word whose opcode is known. -/
theorem decodeCommand_of_opField {op : BitVec 4} {row : BitVec 32 → BitVec 32 → Instr}
    (hrow : ∀ a d, decodeCommand (commandWord op a d) = row a d) {w : BitVec 68} (h : opField w = op) :
    decodeCommand w = row (aField w) (dField w) :=
  (congrArg decodeCommand (eq_commandWord h)).trans (hrow _ _)

theorem exists_ending_of_word {s : State} (hacc : s.accepting) (w : BitVec 68) :
    ∃ t, exec (decodeCommand w) s = .next t ∧ Ending (decodeCommand w) s t := by
  obtain ⟨hop, -, -⟩ := decodeByOpcodeAlone w
  exact exec_ending hacc (by simp [hop])

section FirstWord

variable {s : State} {w : BitVec 68}

theorem freshCheck_of_fresh (hinit : s.init = false) {n : Nat} (hn : n ≤ Config.nmax) : freshCheck n s = none := by
  simp [freshCheck, hinit, Nat.not_lt.2 hn]

theorem freshCheck_of_countRange (hinit : s.init = false) {n : Nat} (hn : Config.nmax < n) :
    freshCheck n s = some .countRange := by
  simp [freshCheck, hinit, hn]

/-- INIT and BEGIN face the two checks of a new buffer. -/
theorem firstFault_eq_freshCheck (h : opField w = 0x1 ∨ opField w = 0x9) :
    firstFault (decodeCommand w) s = freshCheck (aField w).toNat s := by
  rcases h with h | h
  · rw [decodeCommand_of_opField decodeCommand_init h]; rfl
  · rw [decodeCommand_of_opField decodeCommand_begin h]; rfl

theorem firstFault_of_reserved (h : opField w = 0x0 ∨ 0xB ≤ (opField w).toNat) :
    firstFault (decodeCommand w) s = some .illegalOp := by
  have hop : ∀ op : BitVec 4, 0xB ≤ op.toNat → op = 0xB ∨ op = 0xC ∨ op = 0xD ∨ op = 0xE ∨ op = 0xF := by decide
  rcases h.imp_right (hop (opField w)) with h | h | h | h | h | h
  · rw [decodeCommand_of_opField decodeCommand_reserved0 h]; rfl
  · rw [decodeCommand_of_opField decodeCommand_reservedB h]; rfl
  · rw [decodeCommand_of_opField decodeCommand_reservedC h]; rfl
  · rw [decodeCommand_of_opField decodeCommand_reservedD h]; rfl
  · rw [decodeCommand_of_opField decodeCommand_reservedE h]; rfl
  · rw [decodeCommand_of_opField decodeCommand_reservedF h]; rfl

theorem firstFault_of_uninit (hinit : s.init = false)
    (h : opField w = 0x2 ∨ opField w = 0x3 ∨ opField w = 0x4 ∨ opField w = 0x5 ∨ opField w = 0x6 ∨ opField w = 0x8 ∨
      opField w = 0xA) : firstFault (decodeCommand w) s = some .uninit := by
  rcases h with h | h | h | h | h | h | h
  · rw [decodeCommand_of_opField decodeCommand_setc h]; simp [firstFault, uninitCheck, hinit]
  · rw [decodeCommand_of_opField decodeCommand_rdpx h]; simp [firstFault, readCheck, hinit]
  · rw [decodeCommand_of_opField decodeCommand_wrpx h]; simp [firstFault, uninitCheck, hinit]
  · rw [decodeCommand_of_opField decodeCommand_count h]; simp [firstFault, uninitCheck, hinit]
  · rw [decodeCommand_of_opField decodeCommand_enc h]; simp [firstFault, uninitCheck, hinit]
  · rw [decodeCommand_of_opField decodeCommand_tx h]; simp [firstFault, frameCheck, hinit]
  · rw [decodeCommand_of_opField decodeCommand_update h]; simp [firstFault, uninitCheck, hinit]

end FirstWord

/-- Settles O51: the first check that applies to each opcode on a block without a buffer. -/
theorem firstCommandRule : Obligations.FirstCommandRule := by
  unfold Obligations.FirstCommandRule
  intro s w hacc hinit
  obtain ⟨t, hexec, hending⟩ := exists_ending_of_word hacc w
  refine ⟨t, hexec, ?_⟩
  rw [hending.fault_eq]
  refine ⟨?_, fun h hn => ?_, firstFault_of_reserved, firstFault_of_uninit hinit⟩
  · rintro (h | ⟨h, hn⟩)
    · rw [decodeCommand_of_opField decodeCommand_cfg h]; rfl
    · rw [firstFault_eq_freshCheck h, freshCheck_of_fresh hinit hn]
  · rw [firstFault_eq_freshCheck h, freshCheck_of_countRange hinit hn]

end Sys2Proof.Proofs
end

section
/-! PROOFS. No instruction reads the client's program, the event history or the line history (10_state.md sections 10
and 12): every operation commutes with putting others in their place, but for what it appends. -/

namespace Sys2Proof.Proofs

open Sys2Proof Sys2Proof.Machine Sys2Proof.Claims

/-! ## States that differ in the program and the histories -/

/-- `s` with this program, this event history and this line history. -/
def withHistories (program : List (BitVec 68)) (events : List Event) (line : List Level) (s : State) : State :=
  { s with env := { s.env with program := program, events := events, line := line } }

/-- What an operation may read of a state: all but the program and the two histories. -/
def visible (s : State) : State := withHistories [] [] [] s

/-- States that agree but for the three are one state with others put in their place. -/
theorem eq_withHistories {s r : State} (hblock : r.toBlock = s.toBlock)
    (henv : r.env = { s.env with program := r.env.program, events := r.env.events, line := r.env.line }) :
    r = withHistories r.env.program r.env.events r.env.line s := by
  obtain ⟨block, env⟩ := r
  simp only at hblock henv
  rw [withHistories, ← henv, hblock]

/-- An operation that leaves the program alone, reads none of the three, and only appends to the histories. -/
def Blind (f : State → State) : Prop :=
  ∀ s, ∃ es ls, ∀ program events line,
    f (withHistories program events line s) = withHistories program (events ++ es) (line ++ ls) (f s)

/-- A meaning whose outcome depends on none of the three, but for what it appends to the histories. -/
def BlindOutcome (o : State → Host.Outcome State Fault Refusal) : Prop :=
  ∀ s, (∃ r, ∀ program events line, o (withHistories program events line s) = .fault r) ∨
    (∃ r, ∀ program events line, o (withHistories program events line s) = .refused r) ∨
    ∃ t es ls, ∀ program events line,
      o (withHistories program events line s) = .next (withHistories program (events ++ es) (line ++ ls) t)

/-! ## Putting operations together -/

/-- An operation that touches none of the three. -/
theorem Blind.of_commutes {f : State → State}
    (h : ∀ s program events line, f (withHistories program events line s) = withHistories program events line (f s)) :
    Blind f :=
  fun s => ⟨[], [], fun program events line => by rw [h, List.append_nil, List.append_nil]⟩

/-- An operation that adds one event, read from what it may read. -/
theorem Blind.of_record (e : State → Event) {f : State → State} (hf : Blind f) :
    Blind (fun s => record (e (visible s)) (f s)) := by
  intro s
  obtain ⟨es, ls, h⟩ := hf s
  refine ⟨es ++ [e (visible s)], ls, fun program events line => ?_⟩
  simp only [h, ← List.append_assoc]
  rfl

theorem Blind.comp {f g : State → State} (hf : Blind f) (hg : Blind g) : Blind (fun s => f (g s)) := by
  intro s
  obtain ⟨es, ls, hg⟩ := hg s
  obtain ⟨es', ls', hf⟩ := hf (g s)
  refine ⟨es ++ es', ls ++ ls', fun program events line => ?_⟩
  simp only [hg, hf, List.append_assoc]

/-- A choice made by what an operation may read. -/
theorem Blind.ite (cond : State → Prop) [∀ s, Decidable (cond s)] {f g : State → State} (hf : Blind f) (hg : Blind g) :
    Blind (fun s => if cond (visible s) then f s else g s) := by
  intro s
  have hvisible (program events line) : visible (withHistories program events line s) = visible s := rfl
  by_cases h : cond (visible s)
  · simp only [hvisible, if_pos h]
    exact hf s
  · simp only [hvisible, if_neg h]
    exact hg s

/-! ## The operations of the model -/

theorem blind_id : Blind (fun s => s) := .of_commutes fun _ _ _ _ => rfl

theorem blind_raiseFault (r : FaultReason) : Blind (raiseFault r) := .of_commutes fun _ _ _ _ => rfl

theorem blind_createBuffer (n : Nat) : Blind (createBuffer n) := .of_commutes fun _ _ _ _ => rfl

theorem blind_loadFrame : Blind loadFrame := .of_commutes fun _ _ _ _ => rfl

theorem blind_redraw : Blind redraw := .of_commutes fun _ _ _ _ => rfl

theorem blind_storePixel (i : Int) (c : Color) : Blind (storePixel i c) :=
  .ite (fun s => inRange s.N i = true) (f := fun s => { s with PB := writePixel s.PB (pixelIndex i) c })
    (.of_commutes fun _ _ _ _ => rfl) blind_id

/-- A response whose data is read from what an operation may read. -/
theorem blind_respond (i : Instr) (st : Status) (data : State → BitVec 32) :
    Blind (fun s => respond i st (data (visible s)) s) :=
  .of_record (fun s => .response i ⟨st, data s⟩) blind_id

theorem blind_startTransmission (c : Caller) : Blind (startTransmission c) :=
  fun s => ⟨[.transmit s.CFGR.channel s.IS true], List.replicate s.env.next.idleTicks .L, fun _ _ _ => rfl⟩

theorem blind_transmitFrame (c : Caller) : Blind (transmitFrame c) :=
  .ite (fun s => s.ready = true) (blind_startTransmission c)
    (.comp (g := fun s => { s with isValid := false }) (blind_respond c.instr .errTransmit fun _ => 0)
      (.of_commutes fun _ _ _ _ => rfl))

/-- The line is read by no one: the ticks of the hold are appended as they are. -/
theorem blind_holdLine : Blind holdLine :=
  .ite (fun s => s.env.lineHeld = true) blind_id fun s =>
    ⟨[], (List.range s.env.next.idleTicks).map Config.lineBeforeConfigure ++ [.L], fun _ events _ => by
      rw [List.append_nil events]; rfl⟩

theorem blind_callInstall : Blind callInstall := .of_record (fun s => .install s.CFGR.channel s.env.next.install) blind_id

/-- The first part of CFG's body: `CFGR` written, `ready` cleared, and the configure call (R105). -/
def askConfigure (p c k : Byte) (s : State) : State := callConfigure { s with CFGR := ⟨p, c, k⟩, ready := false }

theorem blind_askConfigure (p c k : Byte) : Blind (askConfigure p c k) :=
  .of_record (fun s => .configure p c k .L false false true s.env.next.configure)
    (f := fun s => { s with CFGR := ⟨p, c, k⟩, ready := false }) (.of_commutes fun _ _ _ _ => rfl)

/-- CFG's body as a choice between its three ends (R105). -/
theorem configureTransport_eq_ite (i : Instr) (p c k : Byte) :
    configureTransport i p c k = fun s => redraw (
      if s.env.next.configure = .ok then
        if s.env.next.install = .ok then
          respond i .ok 0 { holdLine (callInstall (askConfigure p c k s)) with ready := true }
        else respond i .errConfig 0 (callInstall (askConfigure p c k s))
      else respond i .errConfig 0 (askConfigure p c k s)) := by
  funext s
  unfold configureTransport
  cases s.env.next.configure <;> cases s.env.next.install <;> rfl

theorem blind_configureTransport (i : Instr) (p c k : Byte) : Blind (configureTransport i p c k) := by
  have hasked := blind_askConfigure p c k
  have hfailed : Blind (fun s => respond i .errConfig 0 s) := blind_respond i .errConfig fun _ => 0
  have hready : Blind (fun s => { s with ready := true }) := .of_commutes fun _ _ _ _ => rfl
  rw [configureTransport_eq_ite]
  exact blind_redraw.comp <|
    .ite (fun s => s.env.next.configure = .ok)
      (.ite (fun s => s.env.next.install = .ok)
        ((blind_respond i .ok fun _ => 0).comp (hready.comp (blind_holdLine.comp (blind_callInstall.comp hasked))))
        (hfailed.comp (blind_callInstall.comp hasked)))
      (hfailed.comp hasked)

/-! ## The checks and the instructions -/

section Checks

variable {body : State → State} (h : Blind body)

include h

theorem blind_needInit : Blind (needInit body) := .ite (fun s => s.init = true) h (blind_raiseFault _)

theorem blind_needFresh (n : Nat) : Blind (needFresh n body) :=
  .ite (fun s => s.init = true) (blind_raiseFault _) (.ite (fun _ => Config.nmax < n) (blind_raiseFault _) h)

theorem blind_needFrame : Blind (needFrame body) := .ite (fun s => s.isValid = true) h (blind_raiseFault _)

theorem blind_needInRange (i : Int) : Blind (needInRange i body) :=
  .ite (fun s => inRange s.N i = true) h (blind_raiseFault _)

/-- Acceptance reads the fault register and `busy` alone. -/
theorem blindOutcome_accept : BlindOutcome (accept body) := by
  intro s
  cases hf : s.fault with
  | some r => exact .inl ⟨_, fun p e l => accept_of_fault (s := withHistories p e l s) hf⟩
  | none =>
    cases hb : s.busy with
    | true =>
      refine .inr (.inr ⟨s, [], [], fun p e l => ?_⟩)
      rw [accept_of_busy (s := withHistories p e l s) hf hb, List.append_nil, List.append_nil]
    | false =>
      obtain ⟨es, ls, h⟩ := h s
      refine .inr (.inr ⟨body s, es, ls, fun p e l => ?_⟩)
      rw [accept_accepting (s := withHistories p e l s) hf hb, h]

end Checks

theorem blindOutcome_performWrite (cmd : Instr) (i : Int) (c : Color) : BlindOutcome (performWrite cmd i c) :=
  blindOutcome_accept (blind_needInit ((blind_respond cmd .ok fun _ => 0).comp (blind_storePixel i c)))

theorem blindOutcome_illegalOpcode : BlindOutcome illegalOpcode := blindOutcome_accept (blind_raiseFault _)

/-- A generator step reads the fault register, `busy`, `pos` and the item store alone. -/
theorem blindOutcome_takeItem (it : Item) : BlindOutcome (takeItem it) := by
  intro s
  cases hf : s.fault with
  | some r => exact .inl ⟨_, fun p e l => takeItem_of_fault (s := withHistories p e l s) it hf⟩
  | none =>
    by_cases h : s.busy = true ∧ s.pos < s.IS.length
    · refine .inr (.inr ⟨emitItem it s, [], [], fun p e l => ?_⟩)
      rw [takeItem_enabled (s := withHistories p e l s) it hf h.1 h.2, List.append_nil, List.append_nil]
      rfl
    · have hno : s.busy = false ∨ s.IS.length ≤ s.pos := by
        rwa [← Bool.not_eq_true, ← Nat.not_lt, ← not_and_or]
      exact .inr (.inl ⟨_, fun p e l => takeItem_refused (s := withHistories p e l s) it hf hno⟩)

theorem blindOutcome_exec (i : Instr) : BlindOutcome (exec i) := by
  cases i with
  | init n =>
    exact blindOutcome_accept (blind_needFresh ((blind_respond _ .ok fun _ => 0).comp (blind_createBuffer n)) n)
  | setc k c => exact blindOutcome_performWrite _ k c
  | rdpx k =>
    exact blindOutcome_accept (blind_needInit (blind_needInRange
      (blind_respond _ .ok fun s => (readPixel s.PB (pixelIndex k)).pack) k))
  | wrpx k c => exact blindOutcome_performWrite _ k c
  | count => exact blindOutcome_accept (blind_needInit (blind_respond _ .ok fun s => BitVec.ofNat 32 s.N))
  | enc =>
    exact blindOutcome_accept (blind_needInit
      ((blind_respond _ .ok fun s => BitVec.ofNat 32 (32 * s.N + 1)).comp blind_loadFrame))
  | cfg p c k => exact blindOutcome_accept (blind_configureTransport _ p c k)
  | tx => exact blindOutcome_accept (blind_needInit (blind_needFrame (blind_transmitFrame .tx)))
  | begin n =>
    exact blindOutcome_accept (blind_needFresh ((blind_configureTransport _ _ _ _).comp (blind_createBuffer n)) n)
  | update => exact blindOutcome_accept (blind_needInit ((blind_transmitFrame .update).comp blind_loadFrame))
  | setcv k v => exact blindOutcome_performWrite _ k (Color.unpack v)
  | setled k c => exact blindOutcome_performWrite _ k c
  | reserved0 a d => exact blindOutcome_illegalOpcode
  | reservedB a d => exact blindOutcome_illegalOpcode
  | reservedC a d => exact blindOutcome_illegalOpcode
  | reservedD a d => exact blindOutcome_illegalOpcode
  | reservedE a d => exact blindOutcome_illegalOpcode
  | reservedF a d => exact blindOutcome_illegalOpcode
  | t0 => exact blindOutcome_takeItem symT0
  | t1 => exact blindOutcome_takeItem symT1
  | trst => exact blindOutcome_takeItem symTRST

/-- Settles O59: every instruction's meaning is put together from operations that read none of the three. -/
theorem historiesAreNeverRead : Obligations.HistoriesAreNeverRead := by
  unfold Obligations.HistoriesAreNeverRead
  intro i s r hblock henv
  have hr := eq_withHistories hblock henv
  rcases blindOutcome_exec i s with ⟨f, h⟩ | ⟨f, h⟩ | ⟨t, es, ls, h⟩ <;>
    rw [hr, h, show exec i s = _ from h s.env.program s.env.events s.env.line]
  · simp
  · simp
  · refine ⟨by simp, by simp, fun t' ht' => ?_⟩
    obtain rfl := Host.Outcome.next.inj ht'
    exact ⟨_, rfl, rfl, es, ls, rfl, rfl, rfl, rfl⟩

end Sys2Proof.Proofs
end
